-- ==== Sys2Proof/Word.lean ====
section
/-! DEFINITION. The integer types that cross CORE's ports or lie in a frame (45_cross_family.md R160): a byte, and the
unsigned 16-bit and 32-bit words. Signed packed-decimal values are `Int`; lengths and offsets are `Nat`. -/

namespace Sys2Proof

/-- `u8` of 00_scope.md section 6.1: bit 0 is the least significant bit. -/
abbrev Byte := BitVec 8

/-- `u16`: header fields, a Word field's value, the CRC register. -/
abbrev U16 := BitVec 16

/-- `u32`: the token and a Long field's value. -/
abbrev U32 := BitVec 32

end Sys2Proof
end

