-- ==== Sys2Proof/Config.lean ====
section
/-! DEFINITION. The parameters the spec leaves OPEN (00_scope.md section 5) and the one free value it leaves to the
environment (92_eei_decisions.md D30). -/

namespace Sys2Proof

/-- The OPEN parameters of 00_scope.md section 5, "arguments of the model": the five field type tags (30_encoding.md
R60, D4) and the capacity of the frame buffer (10_state.md R16, D16), where `none` is "unbounded".
DESIGN CHOICE (log 1): the state carries them and no operation writes them, so a statement about every state is a
statement about every value of the parameters. -/
structure Config where
  tagS : Byte
  tagB : Byte
  tagW : Byte
  tagL : Byte
  tagP : Byte
  rxBufMax : Option Nat
  deriving DecidableEq, Repr

/-- The five tags in the order of 30_encoding.md R60. -/
def Config.tags (c : Config) : List Byte := [c.tagS, c.tagB, c.tagW, c.tagL, c.tagP]

/-- The spec's constraints on its parameters: "five pairwise distinct bytes" (R60) and `RX_BUF_MAX ≥ 16` (R16). -/
def Config.wf (c : Config) : Bool :=
  decide c.tags.Nodup && c.rxBufMax.all (fun m => decide (16 ≤ m))

/-- The reference instantiation: `REF_TAGS` (30_encoding.md R60), which every test vector uses, and `RX_BUF_MAX`
unbounded (92_eei_decisions.md D16). DESIGN CHOICE (log 1), unsafe where a statement is about this value only: "no
theorem about the real device may depend on it" (R60). -/
def Config.reference : Config where
  tagS := 0x53
  tagB := 0x42
  tagW := 0x57
  tagL := 0x4C
  tagP := 0x50
  rxBufMax := none

/-- What the transport answers to one write (44_stream_framer.md R141): it takes the whole sequence, or it fails after
some number of bytes reached the line (93_implementation_defined.md U14, U15). -/
inductive WriteAnswer where
  /-- the write is accepted -/
  | accepted
  /-- the write fails; the first `reached` bytes of the sequence are on the line ("any prefix of the wire form,
  possibly empty, possibly all", U14) -/
  | failed (reached : Nat)
  deriving DecidableEq, Repr, Inhabited

/-- FREE VALUE (log 8): the transport's answer to write number `n` where the environment has fixed none. "Whether a write
fails is decided by the environment, not by CORE; a model takes it as a free input of the step" (R141). -/
opaque Config.freeWriteAnswer : Nat → WriteAnswer

end Sys2Proof
end

