-- ==== Sys2Proof/Syntax.lean ====
section
/-! DEFINITION. The values that travel on CORE's ports, the transactions presented there, and the instructions: one
constructor of `Instr` per row of spec/opcode_table.json. -/

namespace Sys2Proof

/-- A Field (10_state.md R22): "an immutable tagged value" over five types. A String is its byte codes without the
terminating NUL; a PackedDecimal is an integer. -/
inductive Field where
  | string (text : List Byte)
  | byte (v : Byte)
  | word (v : U16)
  | long (v : U32)
  | packed (v : Int)
  deriving DecidableEq, Repr

/-- `FLen` of 10_state.md R24: the tag and the payload. -/
def Field.encodedLength : Field → Nat
  | .string t => 1 + t.length + 1
  | .byte _ => 2
  | .word _ => 3
  | .long _ => 5
  | .packed _ => 7

/-- A Message (10_state.md R21): six attributes; the declared field count is not one of them. -/
structure Message where
  flag : U16
  token : U32
  command : U16
  length : U16
  fields : List Field
  checksum : U16
  deriving DecidableEq, Repr

/-- The operand values presented on the command port beside the operation-select word (10_state.md R25): an operation
"takes typed operand values on an input port" (00_scope.md R6). DEDUCED (log 2): the spec serialises no operand. -/
inductive Operands where
  | nothing
  | bytes (s : List Byte)
  | int (v : Int)
  | u8 (v : Byte)
  | u16 (v : U16)
  | u32 (v : U32)
  | header (flag : U16) (token : U32) (command : U16) (fields : List Field)
  deriving DecidableEq, Repr

/-- One transaction as it stands on CORE's ports, before it is decoded. -/
inductive Transaction where
  /-- command port: an operation-select word and its operands (30_encoding.md R71) -/
  | command (cw : Byte) (operands : Operands)
  /-- command port: DOC0's form of a field decode, `decode(type_tag, payload_bytes)` (42_field.md R106); log 6 -/
  | field (tag : Byte) (payload : List Byte)
  /-- RX byte port: one received byte (44_stream_framer.md R143) -/
  | rx (b : Byte)
  /-- RX byte port: a two-byte unit of the wire escape layer, first wire byte first (30_encoding.md R67, R68) -/
  | wire (first second : Byte)
  /-- RX byte port: a delivery of a batch of bytes (44_stream_framer.md R153) -/
  | delivery (s : List Byte)
  deriving DecidableEq, Repr

/-- The seven classes of a received byte (30_encoding.md R70). -/
inductive RxClass where
  | escape | data | start | finish | abort | litDle | other
  deriving DecidableEq, Repr

/-- The operations that have an operation-select word (30_encoding.md R71). -/
inductive HostOp where
  | reset | crc16 | pdenc | pddec | fencS | fencB | fencW | fencL | fencP | fdec | frenc | frdec | frvfy | esc | send
  deriving DecidableEq, Repr

/-- Why a transaction decodes to no instruction. -/
inductive Rejection where
  /-- the operation-select word is none of those of 30_encoding.md R71: "refused" (R76) -/
  | unassignedWord (cw : Byte)
  /-- the operands are not of the type the operation takes (60_exceptions.md R178, 45_cross_family.md R160) -/
  | operandType (op : HostOp)
  deriving DecidableEq, Repr

/-- The instructions of CORE: one constructor per row of spec/opcode_table.json, in the table's order. -/
inductive Instr where
  /-- RESET (70_reset_and_hazards.md R200) -/
  | reset
  /-- CRC16 (40_checksum.md R82) -/
  | crc16 (s : List Byte)
  /-- PDENC (41_packed_decimal.md R90); the integer is unbounded on the port -/
  | pdenc (v : Int)
  /-- PDDEC (41_packed_decimal.md R91) -/
  | pddec (p : List Byte)
  /-- FENC.S (42_field.md R101) -/
  | fencS (text : List Byte)
  /-- FENC.B (42_field.md R102) -/
  | fencB (v : Byte)
  /-- FENC.W (42_field.md R103) -/
  | fencW (v : U16)
  /-- FENC.L (42_field.md R104) -/
  | fencL (v : U32)
  /-- FENC.P (42_field.md R105) -/
  | fencP (v : Int)
  /-- FDEC (42_field.md R106) -/
  | fdec (b : List Byte)
  /-- FRENC (43_frame.md R120) -/
  | frenc (flag : U16) (token : U32) (command : U16) (fields : List Field)
  /-- FRDEC (43_frame.md R121) -/
  | frdec (s : List Byte)
  /-- FRVFY (43_frame.md R122) -/
  | frvfy (s : List Byte)
  /-- ESC (44_stream_framer.md R140) -/
  | esc (s : List Byte)
  /-- SEND (44_stream_framer.md R141) -/
  | send (flag : U16) (token : U32) (command : U16) (fields : List Field)
  /-- RXB (44_stream_framer.md R143): any byte on the RX byte port -/
  | rxb (b : Byte)
  /-- RXCHUNK (44_stream_framer.md R153) -/
  | rxchunk (s : List Byte)
  /-- RX.ESC: `esc = 0`, byte 0x10 (R144, R146) -/
  | rxEsc
  /-- RX.DATA: `esc = 0`, any other byte (R144, R146) -/
  | rxData (b : Byte)
  /-- RX.START: `esc = 1`, byte 0x02 (R145, R148) -/
  | rxStart
  /-- RX.END: `esc = 1`, byte 0x03 (R145, R149) -/
  | rxEnd
  /-- RX.ABORT: `esc = 1`, byte 0x08 (R145, R150) -/
  | rxAbort
  /-- RX.LITDLE: `esc = 1`, byte 0x10 (R145, R147) -/
  | rxLitDle
  /-- RX.OTHER: `esc = 1`, any other byte (R145, R151) -/
  | rxOther (b : Byte)
  /-- WIRE.START: the pair 10 02 (30_encoding.md R67) -/
  | wireStart
  /-- WIRE.END: the pair 10 03 (R67) -/
  | wireEnd
  /-- WIRE.ABORT: the pair 10 08 (R67) -/
  | wireAbort
  /-- WIRE.LITDLE: the pair 10 10 (R67) -/
  | wireLitDle
  /-- TAG_S: a field of type String with this payload (30_encoding.md R61, 42_field.md R107) -/
  | tagS (payload : List Byte)
  /-- TAG_B: a field of type Byte (R62, R108) -/
  | tagB (payload : List Byte)
  /-- TAG_W: a field of type Word (R63, R109) -/
  | tagW (payload : List Byte)
  /-- TAG_L: a field of type Long (R64, R110) -/
  | tagL (payload : List Byte)
  /-- TAG_P: a field of type PackedDecimal (R65, R111) -/
  | tagP (payload : List Byte)
  deriving DecidableEq, Repr

end Sys2Proof
end

