-- ==== Sys2Proof/WellFormed.lean ====
section
/-! DEFINITION. Which instructions are transactions at all: the operand types of 60_exceptions.md R178 and the byte
patterns of the classes of 30_encoding.md R70. An ill-formed instruction is refused by its meaning, by name. -/

namespace Sys2Proof

/-- A String text FENC.S takes: every code in 0x01..0x7F (42_field.md R101, D5). -/
def textWf (t : List Byte) : Bool := t.all fun c => decide (0x01 ≤ c.toNat) && decide (c.toNat ≤ 0x7F)

/-- A Field FRENC and SEND admit (60_exceptions.md R178): a String's text is ASCII without NUL. A PackedDecimal out of
its domain is admitted, and raises RangeError (43_frame.md R120). -/
def Field.admitted : Field → Bool
  | .string t => textWf t
  | .byte _ => true
  | .word _ => true
  | .long _ => true
  | .packed _ => true

/-- The packed-decimal domain `PD_MIN .. PD_MAX` (00_scope.md section 5, 41_packed_decimal.md R90). -/
def inPdDomain (v : Int) : Bool := decide (-500000000000 ≤ v) && decide (v ≤ 499999999999)

/-- A Field "well-formed for encoding" (10_state.md R22). -/
def Field.wf : Field → Bool
  | .string t => textWf t
  | .byte _ => true
  | .word _ => true
  | .long _ => true
  | .packed v => inPdDomain v

/-- `L = 16 + Σ FLen(f)` (10_state.md R23, 43_frame.md R120). -/
def frameLength (fields : List Field) : Nat := 16 + (fields.map Field.encodedLength).sum

/-- The operands FRENC and SEND admit (60_exceptions.md R178): admitted Fields and a length the 16-bit field can state. -/
def headerWf (fields : List Field) : Bool :=
  fields.all Field.admitted && decide (frameLength fields ≤ 65535)

/-- The operand types of the operations (60_exceptions.md R178) and the byte patterns of the RX classes (30_encoding.md R70). -/
def Instr.wf : Instr → Bool
  | .reset => true
  | .crc16 _ => true
  | .pdenc _ => true
  | .pddec p => decide (p.length = 6)
  | .fencS t => textWf t
  | .fencB _ => true
  | .fencW _ => true
  | .fencL _ => true
  | .fencP _ => true
  | .fdec b => decide (1 ≤ b.length)
  | .frenc _ _ _ fs => headerWf fs
  | .frdec _ => true
  | .frvfy s => decide (16 ≤ s.length)
  | .esc _ => true
  | .send _ _ _ fs => headerWf fs
  | .rxb _ => true
  | .rxchunk _ => true
  | .rxEsc => true
  | .rxData b => decide (b ≠ 0x10)
  | .rxStart => true
  | .rxEnd => true
  | .rxAbort => true
  | .rxLitDle => true
  | .rxOther b => decide (b ∉ [0x02, 0x03, 0x08, 0x10])
  | .wireStart => true
  | .wireEnd => true
  | .wireAbort => true
  | .wireLitDle => true
  | .tagS _ => true
  | .tagB _ => true
  | .tagW _ => true
  | .tagL _ => true
  | .tagP _ => true

end Sys2Proof
end

