-- ==== Sys2Proof/Decode.lean ====
section
/-! DEFINITION. The decoder, total on every transaction and rejecting by name, and after it the encoder, both written
from the encoding tables of 30_encoding.md. What a received byte is depends on `esc` (R70) and what a tag byte is on
the five tag parameters (R60), so both are arguments of the decoder. -/

namespace Sys2Proof

/-- `STX`, the start marker (00_scope.md section 5). -/
def stx : Byte := 0x02

/-- `ETX`, the end marker. -/
def etx : Byte := 0x03

/-- `ABT`, the abort control value. -/
def abt : Byte := 0x08

/-- `DLE`, the escape byte. -/
def dle : Byte := 0x10

/-! ## The operation-select word (30_encoding.md R71) -/

/-- `op = cw[3:0]`. -/
def cwOp (cw : Byte) : BitVec 4 := cw.extractLsb' 0 4

/-- `ft = cw[6:4]`. -/
def cwFt (cw : Byte) : BitVec 3 := cw.extractLsb' 4 3

/-- `cw[7]`. -/
def cwTop (cw : Byte) : BitVec 1 := cw.extractLsb' 7 1

/-- The operation a word selects (R71); `none` on the unassigned words of R76: `op` 0xB..0xF, `ft ≠ 0` with `op ≠ 4`, `ft` 5..7
with `op = 4`, and every word with `cw[7] = 1`. -/
def hostOpOf (cw : Byte) : Option HostOp :=
  if cwTop cw ≠ 0 then none
  else if cwOp cw = 0x4 then
    if cwFt cw = 0 then some .fencS
    else if cwFt cw = 1 then some .fencB
    else if cwFt cw = 2 then some .fencW
    else if cwFt cw = 3 then some .fencL
    else if cwFt cw = 4 then some .fencP
    else none
  else if cwFt cw ≠ 0 then none
  else if cwOp cw = 0x0 then some .reset
  else if cwOp cw = 0x1 then some .crc16
  else if cwOp cw = 0x2 then some .pdenc
  else if cwOp cw = 0x3 then some .pddec
  else if cwOp cw = 0x5 then some .fdec
  else if cwOp cw = 0x6 then some .frenc
  else if cwOp cw = 0x7 then some .frdec
  else if cwOp cw = 0x8 then some .frvfy
  else if cwOp cw = 0x9 then some .esc
  else if cwOp cw = 0xA then some .send
  else none

/-- The instruction of an operation and its operands; operands of another type than the operation takes are no
transaction (60_exceptions.md R178). -/
def withOperands : HostOp → Operands → Except Rejection Instr
  | .reset, .nothing => .ok .reset
  | .crc16, .bytes s => .ok (.crc16 s)
  | .pdenc, .int v => .ok (.pdenc v)
  | .pddec, .bytes p => .ok (.pddec p)
  | .fencS, .bytes t => .ok (.fencS t)
  | .fencB, .u8 v => .ok (.fencB v)
  | .fencW, .u16 v => .ok (.fencW v)
  | .fencL, .u32 v => .ok (.fencL v)
  | .fencP, .int v => .ok (.fencP v)
  | .fdec, .bytes b => .ok (.fdec b)
  | .frenc, .header f t c fs => .ok (.frenc f t c fs)
  | .frdec, .bytes s => .ok (.frdec s)
  | .frvfy, .bytes s => .ok (.frvfy s)
  | .esc, .bytes s => .ok (.esc s)
  | .send, .header f t c fs => .ok (.send f t c fs)
  | op, _ => .error (.operandType op)

/-- The command port's decoder. -/
def decodeCommand (cw : Byte) (operands : Operands) : Except Rejection Instr :=
  match hostOpOf cw with
  | none => .error (.unassignedWord cw)
  | some op => withOperands op operands

/-! ## Received bytes (30_encoding.md R70) and wire units (R67) -/

/-- The class of a received byte, from `esc` and the byte (R70). -/
def classify (esc : Bool) (b : Byte) : RxClass :=
  if esc then
    if b = stx then .start
    else if b = etx then .finish
    else if b = abt then .abort
    else if b = dle then .litDle
    else .other
  else if b = dle then .escape
  else .data

/-- The row a received byte is, by its class. -/
def decodeRx (esc : Bool) (b : Byte) : Instr :=
  match classify esc b with
  | .escape => .rxEsc
  | .data => .rxData b
  | .start => .rxStart
  | .finish => .rxEnd
  | .abort => .rxAbort
  | .litDle => .rxLitDle
  | .other => .rxOther b

/-- The four pairs of R67; any other two bytes are just two bytes of a delivery. -/
def decodeWire (first second : Byte) : Instr :=
  if first = dle then
    if second = stx then .wireStart
    else if second = etx then .wireEnd
    else if second = abt then .wireAbort
    else if second = dle then .wireLitDle
    else .rxchunk [first, second]
  else .rxchunk [first, second]

/-! ## Field tags (30_encoding.md R59, R60) -/

/-- The field format a tag byte selects, with its payload; an unknown tag (R72) is a field decode that will raise
UnknownFieldTypeError (42_field.md R106). -/
def decodeTag (c : Config) (tag : Byte) (payload : List Byte) : Instr :=
  if tag = c.tagS then .tagS payload
  else if tag = c.tagB then .tagB payload
  else if tag = c.tagW then .tagW payload
  else if tag = c.tagL then .tagL payload
  else if tag = c.tagP then .tagP payload
  else .fdec (tag :: payload)

/-! ## The decoder -/

/-- The decoder: the instruction a transaction is, under the tag parameters and the framer's `esc`. -/
def decode (c : Config) (esc : Bool) : Transaction → Except Rejection Instr
  | .command cw operands => decodeCommand cw operands
  | .field tag payload => .ok (decodeTag c tag payload)
  | .rx b => .ok (decodeRx esc b)
  | .wire first second => .ok (decodeWire first second)
  | .delivery s => .ok (.rxchunk s)

/-! ## The encoder -/

/-- `cw = 0 ∥ ft ∥ op` (30_encoding.md R71). -/
def wordOf (ft : BitVec 3) (op : BitVec 4) : Byte := (0#1 ++ ft) ++ op

/-- The operation-select word of each operation, from its `ft` and `op` (R71). -/
def hostWord : HostOp → Byte
  | .reset => wordOf 0 0x0
  | .crc16 => wordOf 0 0x1
  | .pdenc => wordOf 0 0x2
  | .pddec => wordOf 0 0x3
  | .fencS => wordOf 0 0x4
  | .fencB => wordOf 1 0x4
  | .fencW => wordOf 2 0x4
  | .fencL => wordOf 3 0x4
  | .fencP => wordOf 4 0x4
  | .fdec => wordOf 0 0x5
  | .frenc => wordOf 0 0x6
  | .frdec => wordOf 0 0x7
  | .frvfy => wordOf 0 0x8
  | .esc => wordOf 0 0x9
  | .send => wordOf 0 0xA

/-- The transaction that presents an instruction. RXB and the class rows put their byte on the RX byte port; a field
format is presented under the tag parameter of its type. -/
def encode (c : Config) : Instr → Transaction
  | .reset => .command (hostWord .reset) .nothing
  | .crc16 s => .command (hostWord .crc16) (.bytes s)
  | .pdenc v => .command (hostWord .pdenc) (.int v)
  | .pddec p => .command (hostWord .pddec) (.bytes p)
  | .fencS t => .command (hostWord .fencS) (.bytes t)
  | .fencB v => .command (hostWord .fencB) (.u8 v)
  | .fencW v => .command (hostWord .fencW) (.u16 v)
  | .fencL v => .command (hostWord .fencL) (.u32 v)
  | .fencP v => .command (hostWord .fencP) (.int v)
  | .fdec b => .command (hostWord .fdec) (.bytes b)
  | .frenc f t k fs => .command (hostWord .frenc) (.header f t k fs)
  | .frdec s => .command (hostWord .frdec) (.bytes s)
  | .frvfy s => .command (hostWord .frvfy) (.bytes s)
  | .esc s => .command (hostWord .esc) (.bytes s)
  | .send f t k fs => .command (hostWord .send) (.header f t k fs)
  | .rxb b => .rx b
  | .rxchunk s => .delivery s
  | .rxEsc => .rx dle
  | .rxData b => .rx b
  | .rxStart => .rx stx
  | .rxEnd => .rx etx
  | .rxAbort => .rx abt
  | .rxLitDle => .rx dle
  | .rxOther b => .rx b
  | .wireStart => .wire dle stx
  | .wireEnd => .wire dle etx
  | .wireAbort => .wire dle abt
  | .wireLitDle => .wire dle dle
  | .tagS p => .field c.tagS p
  | .tagB p => .field c.tagB p
  | .tagW p => .field c.tagW p
  | .tagL p => .field c.tagL p
  | .tagP p => .field c.tagP p

/-- The value of `esc` a class row stands under in the table (30_encoding.md R70); `none` where the row names none. -/
def Instr.needsEsc : Instr → Option Bool
  | .rxEsc => some false
  | .rxData _ => some false
  | .rxStart => some true
  | .rxEnd => some true
  | .rxAbort => some true
  | .rxLitDle => some true
  | .rxOther _ => some true
  | _ => none

/-- An instruction as the decoder names it: RXB is the class row of its byte (R143: "The byte's class is given by
`30_encoding.md` rule R70"); every other instruction is itself. -/
def Instr.seenBy (esc : Bool) : Instr → Instr
  | .rxb b => decodeRx esc b
  | i => i

/-! ## The opcode table's own words -/

/-- The pattern spec/opcode_table.json gives the row of an instruction: the row's width in bits, its `match` and its `mask`.
The TAG rows carry the reference tags ("value under REF_TAGS only"); RXCHUNK has no bits of its own. -/
def Instr.tableRow : Instr → Nat × Nat × Nat
  | .reset => (8, 0x00, 0xFF)
  | .crc16 _ => (8, 0x01, 0xFF)
  | .pdenc _ => (8, 0x02, 0xFF)
  | .pddec _ => (8, 0x03, 0xFF)
  | .fencS _ => (8, 0x04, 0xFF)
  | .fencB _ => (8, 0x14, 0xFF)
  | .fencW _ => (8, 0x24, 0xFF)
  | .fencL _ => (8, 0x34, 0xFF)
  | .fencP _ => (8, 0x44, 0xFF)
  | .fdec _ => (8, 0x05, 0xFF)
  | .frenc _ _ _ _ => (8, 0x06, 0xFF)
  | .frdec _ => (8, 0x07, 0xFF)
  | .frvfy _ => (8, 0x08, 0xFF)
  | .esc _ => (8, 0x09, 0xFF)
  | .send _ _ _ _ => (8, 0x0A, 0xFF)
  | .rxb _ => (8, 0x00, 0x00)
  | .rxchunk _ => (0, 0, 0)
  | .rxEsc => (8, 0x10, 0xFF)
  | .rxData _ => (8, 0x00, 0x00)
  | .rxStart => (8, 0x02, 0xFF)
  | .rxEnd => (8, 0x03, 0xFF)
  | .rxAbort => (8, 0x08, 0xFF)
  | .rxLitDle => (8, 0x10, 0xFF)
  | .rxOther _ => (8, 0x00, 0x00)
  | .wireStart => (16, 0x1002, 0xFFFF)
  | .wireEnd => (16, 0x1003, 0xFFFF)
  | .wireAbort => (16, 0x1008, 0xFFFF)
  | .wireLitDle => (16, 0x1010, 0xFFFF)
  | .tagS _ => (8, 0x53, 0xFF)
  | .tagB _ => (8, 0x42, 0xFF)
  | .tagW _ => (8, 0x57, 0xFF)
  | .tagL _ => (8, 0x4C, 0xFF)
  | .tagP _ => (8, 0x50, 0xFF)

/-- The bits a transaction shows the opcode table, numbered as the table numbers them: the width and the number (a wire
pair with its first byte on the left). -/
def Transaction.tableWord : Transaction → Nat × Nat
  | .command cw _ => (8, cw.toNat)
  | .field tag _ => (8, tag.toNat)
  | .rx b => (8, b.toNat)
  | .wire first second => (16, 256 * first.toNat + second.toNat)
  | .delivery _ => (0, 0)

/-- Operands whose every bit is 0, of the type and the least size each operation admits. -/
def zeroOperands : HostOp → Operands
  | .reset => .nothing
  | .crc16 => .bytes []
  | .pdenc => .int 0
  | .pddec => .bytes (List.replicate 6 0)
  | .fencS => .bytes []
  | .fencB => .u8 0
  | .fencW => .u16 0
  | .fencL => .u32 0
  | .fencP => .int 0
  | .fdec => .bytes [0]
  | .frenc => .header 0 0 0 []
  | .frdec => .bytes []
  | .frvfy => .bytes (List.replicate 16 0)
  | .esc => .bytes []
  | .send => .header 0 0 0 []

/-- The transaction that shows the opcode table the `nbits` bits `w`, every operand bit 0. DESIGN CHOICE (log 5): the table
gives several rows the same 8 bits on different ports; an 8-bit word is taken on the command port where R71 assigns
it, else as a reference tag (a field of that type, its payload zeros), else, for 0x10, as the byte RX.ESC names, else on
the command port, where it is refused. A 16-bit word is a wire pair, its first byte in bits 15..8; no bits at all is an
empty delivery. -/
def tableTransaction (c : Config) (nbits w : Nat) : Transaction :=
  if nbits = 16 then .wire (BitVec.ofNat 8 (w / 256)) (BitVec.ofNat 8 w)
  else if nbits = 0 then .delivery []
  else if nbits = 8 then
    match hostOpOf (BitVec.ofNat 8 w) with
    | some op => .command (BitVec.ofNat 8 w) (zeroOperands op)
    | none =>
      if w = 0x53 then .field c.tagS [0]
      else if w = 0x42 then .field c.tagB [0]
      else if w = 0x57 then .field c.tagW (List.replicate 2 0)
      else if w = 0x4C then .field c.tagL (List.replicate 4 0)
      else if w = 0x50 then .field c.tagP (List.replicate 6 0)
      else if w = 0x10 then .rx dle
      else .command (BitVec.ofNat 8 w) .nothing
  else .command 0xFF .nothing

/-- The instruction the decoder reads from a word of the opcode table, right after reset (`esc = 0`, the reference tags). -/
def decodeTableWord (nbits w : Nat) : Option Instr :=
  match decode Config.reference false (tableTransaction Config.reference nbits w) with
  | .ok i => some i
  | .error _ => none

end Sys2Proof
end

