-- ==== Sys2Proof/Machine/State.lean ====
section
/-! DEFINITION. The state of CORE, the reasons a step can stop, and the state after reset. -/

namespace Sys2Proof.Machine

/-- `mode` (10_state.md R13): "two states". -/
inductive Mode where
  | idle | inMessage
  deriving DecidableEq, Repr

/-- `rx_fault` (10_state.md R17), the sticky fault register. -/
inductive RxFault where
  | none | escapeViolation | rxOverflow
  deriving DecidableEq, Repr

/-- The reason a FrameFormatError records (60_exceptions.md R170; the texts of 42_field.md R107 to R111 and
43_frame.md R121). -/
inductive FormatReason where
  /-- "too short" -/
  | tooShort
  /-- "no start marker" -/
  | noStartMarker
  /-- "no end marker" -/
  | noEndMarker
  /-- "byte field truncated" -/
  | byteTruncated
  /-- "word field truncated" -/
  | wordTruncated
  /-- "long field truncated" -/
  | longTruncated
  /-- "packed-decimal field truncated" -/
  | packedTruncated
  /-- "string not terminated" -/
  | stringNotTerminated
  deriving DecidableEq, Repr

/-- The error kinds with their recorded info (60_exceptions.md R170). -/
inductive CodecError where
  /-- the offending value -/
  | rangeError (v : Int)
  /-- the tag byte and its offset -/
  | unknownFieldType (tag : Byte) (offset : Nat)
  /-- a reason and an offset (for "too short", the length) -/
  | frameFormat (reason : FormatReason) (offset : Nat)
  /-- the recomputed and the transmitted checksum -/
  | checksumMismatch (recomputed transmitted : U16)
  /-- the transport's (R175); no info in CORE -/
  | transportError
  /-- the payload byte index and the byte -/
  | digitError (k : Nat) (b : Byte)
  deriving DecidableEq, Repr

/-- What stands on the result port after an operation of the host (10_state.md R25): a result or an error. -/
inductive Reply where
  | u16 (v : U16)
  | bytes (s : List Byte)
  | int (v : Int)
  /-- the decoded Field and `used` (42_field.md R106) -/
  | field (f : Field) (used : Nat)
  | message (m : Message)
  /-- `ok` of FRVFY -/
  | ok
  | error (e : CodecError)
  deriving DecidableEq, Repr

/-- The events of 60_exceptions.md R179 to R181. -/
inductive Event where
  /-- `EvMessage(m, crc_ok)`, message event port -/
  | message (m : Message) (crcOk : Bool)
  /-- `EvIncomplete(bytes)`, diagnostic event port -/
  | incomplete (frame : List Byte)
  /-- `EvDecodeError(K, bytes)`, diagnostic event port -/
  | decodeError (e : CodecError) (frame : List Byte)
  deriving DecidableEq, Repr

/-- The state. `mode`, `esc`, `buf` and `rxFault` are "the only state that persists between operations" (10_state.md
section 2, R13 to R17). The other fields are the model's own: the parameters (log 1), what stands on or was put on the
ports (logs 3, 9, 10), and the transport's side of a write (log 8). -/
structure State where
  /-- the OPEN parameters; no operation writes them -/
  cfg : Config
  /-- R13 -/
  mode : Mode
  /-- R14: a DLE is pending -/
  esc : Bool
  /-- R15: the frame buffer, the start marker at offset 0 -/
  buf : List Byte
  /-- R17 -/
  rxFault : RxFault
  /-- the result port (R25): what the step just taken returned; it holds nothing else (log 9) -/
  result : Option Reply
  /-- the TX wire stream (20_memory.md R30) -/
  tx : List Byte
  /-- the events emitted so far, oldest first -/
  events : List Event
  /-- the transactions presented and not yet taken, oldest first -/
  pending : List Transaction
  /-- the transport's answers to the next writes, where the environment has fixed them -/
  transport : List WriteAnswer
  /-- how many writes were made -/
  writes : Nat
  deriving DecidableEq, Repr

/-- Faults that stop the machine. There is none: an error is a reply and leaves the machine running (60_exceptions.md R184,
R185), and a sticky fault is a value of `rxFault` (R177) under which host operations go on (44_stream_framer.md R154). -/
inductive Fault where
  deriving DecidableEq, Repr

/-- Transactions the spec "gives no meaning and which a model must not admit" (60_exceptions.md R178). Each is safe: the model
stops and says nothing of what a device would do. -/
inductive Refusal where
  /-- raised by `exec`'s arm of an instruction that has no meaning yet; safe; no arm of this model raises it -/
  | notModelled (mnemonic : String)
  /-- raised by `step` for a transaction that decodes to no instruction: an unassigned operation-select word
  (30_encoding.md R76) or operands of another type (R178); safe -/
  | rejected (r : Rejection)
  /-- raised by FENC.S, FRENC and SEND: a text holds a code 0x00 or ≥ 0x80 (42_field.md R101); safe -/
  | textNotAscii
  /-- raised by FRENC and SEND: the encoded length exceeds 65535 (43_frame.md R120); safe -/
  | frameTooLong
  /-- raised by PDDEC: "a sequence of another length is refused at the port" (41_packed_decimal.md R91); safe -/
  | notSixBytes
  /-- raised by FDEC: "FDEC on an empty sequence is refused" (D29); safe -/
  | emptyField
  /-- raised by FRVFY: fewer than 16 bytes (43_frame.md R122); safe -/
  | shortVerify
  /-- raised by a class row of RXB run where the byte is not of that class (30_encoding.md R70); `step` never does that; safe
  (log 4) -/
  | notOfClass (c : RxClass)
  deriving DecidableEq, Repr

/-- The machine right after reset: `mode = IDLE`, `esc = 0`, `buf = []`, `rx_fault = None` (70_reset_and_hazards.md R201), "ports
carry nothing at reset" (10_state.md section 8). The parameters are the reference instantiation (log 1); no transaction is
presented (log 3) and no answer of the transport is fixed (log 8): DESIGN CHOICE. -/
def State.reset : State where
  cfg := Config.reference
  mode := .idle
  esc := false
  buf := []
  rxFault := .none
  result := none
  tx := []
  events := []
  pending := []
  transport := []
  writes := 0

end Sys2Proof.Machine
end

