-- ==== Sys2Proof/Machine/Ops.lean ====
section
/-! DEFINITION. The shared operations: the byte-sequence primitives of 00_scope.md sections 6.2 and 7, and what an
operation does to the state: answer, raise an error, emit an event, append to the frame buffer, write to the transport. -/

namespace Sys2Proof.Machine

/-- What a meaning answers. -/
abbrev Outcome := Host.Outcome State Fault Refusal

/-! ## Byte sequences -/

/-- `LE_n(v)` (00_scope.md section 7): the low `8n` bits of `v`, least significant byte first. -/
def leBytes : Nat → Nat → List Byte
  | 0, _ => []
  | n + 1, v => BitVec.ofNat 8 v :: leBytes n (v / 256)

/-- `Σ s[i] · 256^i` (20_memory.md R32). -/
def leValue : List Byte → Nat
  | [] => 0
  | b :: s => b.toNat + 256 * leValue s

/-- `s[a .. a+n-1]`: `n` bytes from offset `a`. -/
def slice (s : List Byte) (a n : Nat) : List Byte := (s.drop a).take n

/-- `MemRead(s+a, n)` (00_scope.md section 6.2); the callers check `a + n ≤ len(s)` first (45_cross_family.md R164). -/
def memRead (s : List Byte) (a n : Nat) : Nat := leValue (slice s a n)

/-! ## Replies, errors and events -/

/-- The operation returns a result on the result port (10_state.md R25). -/
def State.answer (s : State) (r : Reply) : State := { s with result := some r }

/-- The operation returns nothing: the result port is empty after it, since "results are not retained between operations"
(10_state.md R10) and the ports "hold nothing between operations" (R25). -/
def State.noReply (s : State) : State := { s with result := none }

/-- TAKING AN ERROR (60_exceptions.md R184): "the operation returns the error code and info on the result port in place of a
result; no CORE state is changed; nothing is written to the TX stream; no event is emitted; no state is saved anywhere, no
mode changes, control goes nowhere." There is no return from it: "after an error the host may issue any operation at
once" (R185). -/
def State.raise (s : State) (e : CodecError) : State := { s with result := some (.error e) }

/-- An operation that returns a result or raises an error ends in one of the two. -/
def State.finish (s : State) : Except CodecError Reply → Outcome
  | .ok r => .next (s.answer r)
  | .error e => .next (s.raise e)

/-- `emit` (00_scope.md section 6.3): one event, behind those emitted before (20_memory.md R45). -/
def State.emit (s : State) (e : Event) : State := { s with events := s.events ++ [e] }

/-- The message event port's share of what was emitted (60_exceptions.md R179). -/
def messagePort (es : List Event) : List (Message × Bool) :=
  es.filterMap fun
    | .message m ok => some (m, ok)
    | .incomplete _ => none
    | .decodeError _ _ => none

/-- The diagnostic event port's share of what was emitted (60_exceptions.md R180, R181). -/
def diagnosticPort (es : List Event) : List Event :=
  es.filter fun
    | .message _ _ => false
    | .incomplete _ => true
    | .decodeError _ _ => true

/-! ## The frame buffer -/

/-- `len(buf) = RX_BUF_MAX` (44_stream_framer.md R152); never with the capacity unbounded. -/
def State.bufFull (s : State) : Bool := decide (s.cfg.rxBufMax = some s.buf.length)

/-- `Append(x)` (44_stream_framer.md R152), where nothing of the calling rule follows it: a full buffer is the sticky fault
`RxOverflow`, "buf, mode unchanged". -/
def State.append (s : State) (x : Byte) : State :=
  if s.bufFull then { s with rxFault := .rxOverflow } else { s with buf := s.buf ++ [x] }

/-! ## The transport -/

/-- The transport's answer to the write at hand (44_stream_framer.md R141, D30): what the environment has fixed, else the free
value (log 8). -/
def State.writeAnswer (s : State) : WriteAnswer :=
  match s.transport with
  | a :: _ => a
  | [] => Config.freeWriteAnswer s.writes

/-- What is on the TX wire stream after writing `w` (44_stream_framer.md R141; 93_implementation_defined.md U14). -/
def State.txAfter (s : State) (w : List Byte) : List Byte :=
  match s.writeAnswer with
  | .accepted => s.tx ++ w
  | .failed reached => s.tx ++ w.take reached

/-- What SEND returns for the write of `w`: `w`, or TransportError ("on failure the result port carries code 5", D30). -/
def State.writeReply (s : State) (w : List Byte) : Reply :=
  match s.writeAnswer with
  | .accepted => .bytes w
  | .failed _ => .error .transportError

/-- "one write(w) to the transport, bytes in offset order" (44_stream_framer.md R141). -/
def State.transmit (s : State) (w : List Byte) : State :=
  { s with
    tx := s.txAfter w
    result := some (s.writeReply w)
    transport := s.transport.tail
    writes := s.writes + 1 }

end Sys2Proof.Machine
end

