-- ==== Sys2Proof/Machine/Checksum.lean ====
section
/-! DEFINITION. The ChecksumEngine (40_checksum.md): `CRC_TABLE`, `CrcStep` and CRC16. -/

namespace Sys2Proof.Machine

/-- One of the eight repetitions of 40_checksum.md R80. -/
def crcShift (r : U16) : U16 :=
  if r.getLsbD 15 then (r <<< 1) ^^^ 0x1021#16 else r <<< 1

/-- `CRC_TABLE[i]` (40_checksum.md R80): "from `r0 = i << 8` by eight repetitions". A constant (10_state.md R18; log 11). -/
def crcTable (i : Byte) : U16 :=
  crcShift (crcShift (crcShift (crcShift (crcShift (crcShift (crcShift (crcShift
    (i.setWidth 16 <<< 8))))))))

/-- `CrcStep(crc, b)` (40_checksum.md R81). -/
def crcStep (crc : U16) (b : Byte) : U16 :=
  (crc <<< 8) ^^^ crcTable (crc.extractLsb' 8 8 ^^^ b)

/-- `CRC16(s)` (40_checksum.md R82): "seeded at 0", ascending offset, no final exclusive-or. -/
def crc16 (s : List Byte) : U16 := s.foldl crcStep 0x0000

/-- CRC16 (40_checksum.md R82); total. -/
def execCrc16 (b : List Byte) (s : State) : Outcome := .next (s.answer (.u16 (crc16 b)))

end Sys2Proof.Machine
end

