-- ==== Sys2Proof/Machine/Operands.lean ====
section
/-! DEFINITION. The operand forms an operation checks when it runs (60_exceptions.md R178): CORE has no registers and no
addressing modes (10_state.md R10, 45_cross_family.md R164), so an operand is a typed value, and the only question is
whether it is of the type. -/

namespace Sys2Proof.Machine

/-- A text FENC.S takes: "each in 0x01..0x7F" (42_field.md R101). -/
def asciiText (t : List Byte) : Bool := t.all fun c => decide (0x01 ≤ c.toNat) && decide (c.toNat ≤ 0x7F)

/-- A Field FRENC and SEND take: no String Field with another text (60_exceptions.md R178). -/
def takesField : Field → Bool
  | .string t => asciiText t
  | .byte _ => true
  | .word _ => true
  | .long _ => true
  | .packed _ => true

/-- "exactly 6 bytes" (41_packed_decimal.md R91). -/
def sixBytes (p : List Byte) : Bool := decide (p.length = 6)

/-- "`N ≥ 16`" (43_frame.md R122). -/
def verifiable (s : List Byte) : Bool := decide (16 ≤ s.length)

/-- "require L <= 65535" (43_frame.md R120). -/
def lengthFits (total : Nat) : Bool := decide (total ≤ 65535)

end Sys2Proof.Machine
end

