-- ==== Sys2Proof/Machine/PackedDecimal.lean ====
section
/-! DEFINITION. The PackedDecimalCodec (41_packed_decimal.md): PDENC and PDDEC. -/

namespace Sys2Proof.Machine

/-- The 12-digit magnitude `u` of a value of the domain (41_packed_decimal.md R90): `v`, or `v + 10^12` for `v < 0`. -/
def pdMagnitude (v : Int) : Nat := (if v < 0 then v + 1000000000000 else v).toNat

/-- Payload byte `k` of magnitude `u` (41_packed_decimal.md R90): `hi ∥ lo`, digits `d(2k+1)` and `d(2k)`. -/
def pdByte (u k : Nat) : Byte :=
  BitVec.ofNat 8 (16 * (u / (10 * 100 ^ k) % 10) + u / 100 ^ k % 10)

/-- `PDENC(v)` (41_packed_decimal.md R90). -/
def pdEnc (v : Int) : Except CodecError (List Byte) :=
  if v < -500000000000 ∨ v > 499999999999 then .error (.rangeError v)
  else
    .ok [pdByte (pdMagnitude v) 0, pdByte (pdMagnitude v) 1, pdByte (pdMagnitude v) 2,
      pdByte (pdMagnitude v) 3, pdByte (pdMagnitude v) 4, pdByte (pdMagnitude v) 5]

/-- High nibble `b[7:4]`. -/
def hiNibble (b : Byte) : Nat := (b.extractLsb' 4 4).toNat

/-- Low nibble `b[3:0]`. -/
def loNibble (b : Byte) : Nat := (b.extractLsb' 0 4).toNat

/-- The magnitude of the payload bytes from index `k` on (41_packed_decimal.md R91): the highest offset is read first, so it is
its bad digit that is reported. -/
def pdValue : Nat → List Byte → Except CodecError Nat
  | _, [] => .ok 0
  | k, b :: p =>
    match pdValue (k + 1) p with
    | .error e => .error e
    | .ok u =>
      if hiNibble b > 9 ∨ loNibble b > 9 then .error (.digitError k b)
      else .ok (u * 100 + hiNibble b * 10 + loNibble b)

/-- The sign of a magnitude (41_packed_decimal.md R91). -/
def pdSigned (u : Nat) : Int := if u ≥ 500000000000 then (u : Int) - 1000000000000 else u

/-- `PDDEC(p)` (41_packed_decimal.md R91), for `p` of six bytes. -/
def pdDec (p : List Byte) : Except CodecError Int :=
  match pdValue 0 p with
  | .error e => .error e
  | .ok u => .ok (pdSigned u)

/-- PDENC (41_packed_decimal.md R90). -/
def execPdenc (v : Int) (s : State) : Outcome := s.finish ((pdEnc v).map .bytes)

/-- PDDEC (41_packed_decimal.md R91): another length than six is refused. -/
def execPddec (p : List Byte) (s : State) : Outcome :=
  if sixBytes p then s.finish ((pdDec p).map .int) else .refused .notSixBytes

end Sys2Proof.Machine
end

