-- ==== Sys2Proof/Machine/FieldCodec.lean ====
section
/-! DEFINITION. The FieldCodec (42_field.md): the five encoders, the field decoder with its five payload formats, and the
TAG rows of the table, each the decoding of a field of that type. -/

namespace Sys2Proof.Machine

/-! ## Encoding -/

/-- `FENC.S(t) = [TAG_S] ++ t ++ [0x00]` (42_field.md R101). -/
def fencString (c : Config) (t : List Byte) : List Byte := [c.tagS] ++ t ++ [0x00]

/-- `FENC.B(v) = [TAG_B, v]` (42_field.md R102). -/
def fencByte (c : Config) (v : Byte) : List Byte := [c.tagB, v]

/-- `FENC.W(v)` (42_field.md R103): the tag and the value little-endian. -/
def fencWord (c : Config) (v : U16) : List Byte := c.tagW :: leBytes 2 v.toNat

/-- `FENC.L(v)` (42_field.md R104). -/
def fencLong (c : Config) (v : U32) : List Byte := c.tagL :: leBytes 4 v.toNat

/-- `FENC.P(v) = [TAG_P] ++ PDENC(v)` (42_field.md R105). -/
def fencPacked (c : Config) (v : Int) : Except CodecError (List Byte) :=
  match pdEnc v with
  | .error e => .error e
  | .ok p => .ok (c.tagP :: p)

/-- `FEnc(f)` (42_field.md R100). -/
def fieldEnc (c : Config) : Field → Except CodecError (List Byte)
  | .string t => .ok (fencString c t)
  | .byte v => .ok (fencByte c v)
  | .word v => .ok (fencWord c v)
  | .long v => .ok (fencLong c v)
  | .packed v => fencPacked c v

/-- FENC.S (42_field.md R101): a text outside the operand type is refused. -/
def execFencS (t : List Byte) (s : State) : Outcome :=
  if asciiText t then .next (s.answer (.bytes (fencString s.cfg t))) else .refused .textNotAscii

/-- FENC.B (42_field.md R102). -/
def execFencB (v : Byte) (s : State) : Outcome := .next (s.answer (.bytes (fencByte s.cfg v)))

/-- FENC.W (42_field.md R103). -/
def execFencW (v : U16) (s : State) : Outcome := .next (s.answer (.bytes (fencWord s.cfg v)))

/-- FENC.L (42_field.md R104). -/
def execFencL (v : U32) (s : State) : Outcome := .next (s.answer (.bytes (fencLong s.cfg v)))

/-- FENC.P (42_field.md R105). -/
def execFencP (v : Int) (s : State) : Outcome := s.finish ((fencPacked s.cfg v).map .bytes)

/-! ## Decoding

A decoder takes the offset `q` of the payload and the window `w` of the bytes at offsets `q .. e−1`, and returns the Field and
the window left behind it. -/

/-- The result of a field decode: the Field and the bytes behind it, or an error. -/
abbrev FieldResult := Except CodecError (Field × List Byte)

/-- The scan of `FDecS` (42_field.md R107): the bytes before the first 0x00, and those behind it. -/
def splitAtNul : List Byte → Option (List Byte × List Byte)
  | [] => none
  | b :: w =>
    if b = 0x00 then some ([], w)
    else
      match splitAtNul w with
      | none => none
      | some (t, rest) => some (b :: t, rest)

/-- `FDecS` (42_field.md R107). -/
def fdecString (q : Nat) (w : List Byte) : FieldResult :=
  match splitAtNul w with
  | none => .error (.frameFormat .stringNotTerminated q)
  | some (t, rest) => .ok (.string t, rest)

/-- `FDecB` (42_field.md R108). -/
def fdecByte (q : Nat) (w : List Byte) : FieldResult :=
  match w with
  | [] => .error (.frameFormat .byteTruncated q)
  | b :: rest => .ok (.byte b, rest)

/-- `FDecW` (42_field.md R109). -/
def fdecWord (q : Nat) (w : List Byte) : FieldResult :=
  if w.length < 2 then .error (.frameFormat .wordTruncated q)
  else .ok (.word (BitVec.ofNat 16 (memRead w 0 2)), w.drop 2)

/-- `FDecL` (42_field.md R110): exactly 4 bytes. -/
def fdecLong (q : Nat) (w : List Byte) : FieldResult :=
  if w.length < 4 then .error (.frameFormat .longTruncated q)
  else .ok (.long (BitVec.ofNat 32 (memRead w 0 4)), w.drop 4)

/-- `FDecP` (42_field.md R111): exactly 6 bytes, the width checked before the digits. -/
def fdecPacked (q : Nat) (w : List Byte) : FieldResult :=
  if w.length < 6 then .error (.frameFormat .packedTruncated q)
  else
    match pdDec (w.take 6) with
    | .error e => .error e
    | .ok v => .ok (.packed v, w.drop 6)

/-- `FDec(s, p, e)` (42_field.md R106): the tag at offset `p`, examined first, and the window behind it. -/
def fieldDec (c : Config) (p : Nat) (tag : Byte) (w : List Byte) : FieldResult :=
  if tag = c.tagS then fdecString (p + 1) w
  else if tag = c.tagB then fdecByte (p + 1) w
  else if tag = c.tagW then fdecWord (p + 1) w
  else if tag = c.tagL then fdecLong (p + 1) w
  else if tag = c.tagP then fdecPacked (p + 1) w
  else .error (.unknownFieldType tag p)

/-- The reply of a field decode alone (42_field.md R106): the Field and `used`, the bytes taken of `total`. -/
def fieldReply (total : Nat) : FieldResult → Except CodecError Reply
  | .error e => .error e
  | .ok (f, rest) => .ok (.field f (total - rest.length))

/-- FDEC (42_field.md R106): `FDec(b, 0, len(b))`; an empty sequence is refused. -/
def execFdec (b : List Byte) (s : State) : Outcome :=
  match b with
  | [] => .refused .emptyField
  | tag :: w => s.finish (fieldReply (1 + w.length) (fieldDec s.cfg 0 tag w))

/-- TAG_S: the decode of a String field with this payload (30_encoding.md R61, 42_field.md R107; log 6). -/
def execTagS (w : List Byte) (s : State) : Outcome := s.finish (fieldReply (1 + w.length) (fdecString 1 w))

/-- TAG_B: the decode of a Byte field (30_encoding.md R62, 42_field.md R108). -/
def execTagB (w : List Byte) (s : State) : Outcome := s.finish (fieldReply (1 + w.length) (fdecByte 1 w))

/-- TAG_W: the decode of a Word field (30_encoding.md R63, 42_field.md R109). -/
def execTagW (w : List Byte) (s : State) : Outcome := s.finish (fieldReply (1 + w.length) (fdecWord 1 w))

/-- TAG_L: the decode of a Long field (30_encoding.md R64, 42_field.md R110). -/
def execTagL (w : List Byte) (s : State) : Outcome := s.finish (fieldReply (1 + w.length) (fdecLong 1 w))

/-- TAG_P: the decode of a PackedDecimal field (30_encoding.md R65, 42_field.md R111). -/
def execTagP (w : List Byte) (s : State) : Outcome := s.finish (fieldReply (1 + w.length) (fdecPacked 1 w))

end Sys2Proof.Machine
end

