-- ==== Sys2Proof/Machine/FrameCodec.lean ====
section
/-! DEFINITION. The FrameCodec (43_frame.md): FRENC, FRDEC and FRVFY, over the layout of 30_encoding.md R50. -/

namespace Sys2Proof.Machine

/-! ## Encoding -/

/-- The field list: "each field's encoded bytes in order" (43_frame.md R120); the first field that raises decides. -/
def fieldsEnc (c : Config) : List Field → Except CodecError (List Byte)
  | [] => .ok []
  | f :: fs =>
    match fieldEnc c f with
    | .error e => .error e
    | .ok b =>
      match fieldsEnc c fs with
      | .error e => .error e
      | .ok rest => .ok (b ++ rest)

/-- What the checksum covers: everything after the start marker through the end of the fields (43_frame.md R120,
30_encoding.md R56). -/
def frameCovered (flag : U16) (token : U32) (command : U16) (count : Nat) (body : List Byte) : List Byte :=
  leBytes 2 flag.toNat ++ leBytes 4 token.toNat ++ leBytes 2 (16 + body.length) ++ leBytes 2 count
    ++ leBytes 2 command.toNat ++ body

/-- The unescaped frame of a header and an encoded field list (30_encoding.md R50). -/
def frameBytes (flag : U16) (token : U32) (command : U16) (count : Nat) (body : List Byte) : List Byte :=
  [stx] ++ frameCovered flag token command count body
    ++ leBytes 2 (crc16 (frameCovered flag token command count body)).toNat ++ [etx]

/-- How a frame's encoding ends: refused, raised, or built. -/
inductive FrameBuild where
  | refused (r : Refusal)
  | raised (e : CodecError)
  | built (frame : List Byte)
  deriving DecidableEq, Repr

/-- FRENC's function (43_frame.md R120), shared with SEND. A Field outside the operand type is refused first, then the
first PackedDecimal out of its domain raises, then a length above 65535 is refused (DEDUCED, log 7). -/
def frameEnc (c : Config) (flag : U16) (token : U32) (command : U16) (fields : List Field) : FrameBuild :=
  if fields.all takesField then
    match fieldsEnc c fields with
    | .error e => .raised e
    | .ok body =>
      if lengthFits (16 + body.length) then .built (frameBytes flag token command fields.length body)
      else .refused .frameTooLong
  else .refused .textNotAscii

/-- FRENC (43_frame.md R120). -/
def execFrenc (flag : U16) (token : U32) (command : U16) (fields : List Field) (s : State) : Outcome :=
  match frameEnc s.cfg flag token command fields with
  | .refused r => .refused r
  | .raised e => .next (s.raise e)
  | .built frame => .next (s.answer (.bytes frame))

/-! ## Decoding -/

/-- The field loop of FRDEC (43_frame.md R121) over the window of offsets `pos .. e−1`. The first argument bounds the loop; the
window's length is enough, since every field takes at least two bytes (45_cross_family.md R163; log 13). -/
def fieldsDec (c : Config) : Nat → Nat → List Byte → Except CodecError (List Field)
  | _, _, [] => .ok []
  | 0, pos, _ :: _ => .error (.frameFormat .tooShort pos)
  | fuel + 1, pos, tag :: w =>
    match fieldDec c pos tag w with
    | .error e => .error e
    | .ok (f, rest) =>
      match fieldsDec c fuel (pos + (1 + w.length - rest.length)) rest with
      | .error e => .error e
      | .ok fs => .ok (f :: fs)

/-- The bytes at offsets `13 .. N−4`: the field list (30_encoding.md R50). -/
def fieldArea (s : List Byte) : List Byte := slice s 13 (s.length - 16)

/-- The Message of a frame and its parsed fields: header values at their fixed offsets (43_frame.md R121); `length` as read
(R125), `checksum` as transmitted (R124), the count at offset 9 dropped (R125). -/
def messageOf (s : List Byte) (fields : List Field) : Message where
  flag := BitVec.ofNat 16 (memRead s 1 2)
  token := BitVec.ofNat 32 (memRead s 3 4)
  command := BitVec.ofNat 16 (memRead s 11 2)
  length := BitVec.ofNat 16 (memRead s 7 2)
  fields := fields
  checksum := BitVec.ofNat 16 (memRead s (s.length - 3) 2)

/-- `FRDEC(s)` (43_frame.md R121), its checks in the order of R127. -/
def frameDec (c : Config) (s : List Byte) : Except CodecError Message :=
  if s.length < 16 then .error (.frameFormat .tooShort s.length)
  else if s[0]? ≠ some stx then .error (.frameFormat .noStartMarker 0)
  else if s[s.length - 1]? ≠ some etx then .error (.frameFormat .noEndMarker (s.length - 1))
  else
    match fieldsDec c (fieldArea s).length 13 (fieldArea s) with
    | .error e => .error e
    | .ok fields => .ok (messageOf s fields)

/-- FRDEC (43_frame.md R121). -/
def execFrdec (b : List Byte) (s : State) : Outcome := s.finish ((frameDec s.cfg b).map .message)

/-! ## Verification -/

/-- The checksum recomputed over offsets `1 .. N−4` (43_frame.md R122). -/
def recomputed (s : List Byte) : U16 := crc16 (slice s 1 (s.length - 4))

/-- The checksum transmitted at offsets `N−3 .. N−2` (43_frame.md R122). -/
def transmitted (s : List Byte) : U16 := BitVec.ofNat 16 (memRead s (s.length - 3) 2)

/-- `CrcOk(s)` (43_frame.md R122). -/
def crcOk (s : List Byte) : Bool := decide (recomputed s = transmitted s)

/-- FRVFY (43_frame.md R122): fewer than 16 bytes are refused. -/
def execFrvfy (b : List Byte) (s : State) : Outcome :=
  if verifiable b then
    if crcOk b then .next (s.answer .ok)
    else .next (s.raise (.checksumMismatch (recomputed b) (transmitted b)))
  else .refused .shortVerify

end Sys2Proof.Machine
end

