-- ==== Sys2Proof/Machine/Framer.lean ====
section
/-! DEFINITION. The StreamFramer (44_stream_framer.md): ESC and SEND on the send side; RXB with its seven classes, RXCHUNK
and the four wire units on the receive side. -/

namespace Sys2Proof.Machine

/-! ## Send side -/

/-- `U(i)` (44_stream_framer.md R140), for a byte that is or is not the first, and is or is not the last. -/
def escUnit (first last : Bool) (b : Byte) : List Byte :=
  if b = dle then [dle, dle]
  else if first && decide (b = stx) then [dle, stx]
  else if last && decide (b = etx) then [dle, etx]
  else [b]

/-- The units of a sequence whose first byte is or is not that of the whole. -/
def escFrom : Bool → List Byte → List Byte
  | _, [] => []
  | first, b :: s => escUnit first s.isEmpty b ++ escFrom false s

/-- `Esc(s)` (44_stream_framer.md R140). -/
def escape (s : List Byte) : List Byte := escFrom true s

/-- ESC (44_stream_framer.md R140); total. -/
def execEsc (b : List Byte) (s : State) : Outcome := .next (s.answer (.bytes (escape b)))

/-- SEND (44_stream_framer.md R141): FRENC, ESC, one write; an error of FRENC comes before any byte is written. -/
def execSend (flag : U16) (token : U32) (command : U16) (fields : List Field) (s : State) : Outcome :=
  match frameEnc s.cfg flag token command fields with
  | .refused r => .refused r
  | .raised e => .next (s.raise e)
  | .built frame => .next (s.transmit (escape frame))

/-! ## Receive side: the rules of a byte, by class and mode -/

/-- What FRDEC makes of a completed frame (44_stream_framer.md R149): exactly one event. -/
def frameEvent (c : Config) (frame : List Byte) : Event :=
  match frameDec c frame with
  | .ok m => .message m (crcOk frame)
  | .error e => .decodeError e frame

/-- RX.ESC: R144 in IDLE, R146 in IN_MESSAGE. -/
def ruleEsc (s : State) : State := { s with esc := true }

/-- RX.DATA: discarded in IDLE (R144), appended in IN_MESSAGE (R146). -/
def ruleData (b : Byte) (s : State) : State :=
  match s.mode with
  | .idle => s
  | .inMessage => s.append b

/-- RX.START: a frame begins (R145), or begins again, what was accumulated dropped without an event (R148). -/
def ruleStart (s : State) : State :=
  match s.mode with
  | .idle => { s with esc := false, buf := [stx], mode := .inMessage }
  | .inMessage => { s with esc := false, buf := [stx] }

/-- RX.END: discarded in IDLE (R145); in IN_MESSAGE the end marker is appended, the buffer cleared and the frame decoded,
and one event emitted (R149). On overflow "the fault is set and the rule stops here". -/
def ruleEnd (s : State) : State :=
  match s.mode with
  | .idle => { s with esc := false }
  | .inMessage =>
    if s.bufFull then { s with esc := false, rxFault := .rxOverflow }
    else
      State.emit { s with esc := false, buf := [], mode := .idle } (frameEvent s.cfg (s.buf ++ [etx]))

/-- RX.ABORT: discarded in IDLE (R145); in IN_MESSAGE the incomplete frame goes to the diagnostic port (R150). -/
def ruleAbort (s : State) : State :=
  match s.mode with
  | .idle => { s with esc := false }
  | .inMessage => State.emit { s with esc := false, buf := [], mode := .idle } (.incomplete s.buf)

/-- RX.LITDLE: the pair is discarded in IDLE (R145), one literal 0x10 in IN_MESSAGE (R147). -/
def ruleLitDle (s : State) : State :=
  match s.mode with
  | .idle => { s with esc := false }
  | .inMessage => State.append { s with esc := false } dle

/-- RX.OTHER: the pair is discarded in IDLE (R145), the sticky fault EscapeViolation in IN_MESSAGE (R151). -/
def ruleOther (s : State) : State :=
  match s.mode with
  | .idle => { s with esc := false }
  | .inMessage => { s with esc := false, rxFault := .escapeViolation }

/-- The rule of a class (44_stream_framer.md R143). -/
def ruleOf (c : RxClass) (b : Byte) (s : State) : State :=
  match c with
  | .escape => ruleEsc s
  | .data => ruleData b s
  | .start => ruleStart s
  | .finish => ruleEnd s
  | .abort => ruleAbort s
  | .litDle => ruleLitDle s
  | .other => ruleOther s

/-- One received byte (44_stream_framer.md R143), `rx_fault` looked at first: while it is not None, RXB "has no step: the
byte is not consumed, the state does not change, no event is emitted" (R154; log 14). It returns nothing on the result port
(10_state.md R25: only host operations use it), whatever stood there before. -/
def receive (b : Byte) (s : State) : State :=
  if s.rxFault = .none then ruleOf (classify s.esc b) b s.noReply else s.noReply

/-- A class row of RXB: the same step, for a byte that is of that class (30_encoding.md R70; log 4). `rx_fault` is looked at
before the class (60_exceptions.md R183). -/
def receiveAs (c : RxClass) (b : Byte) (s : State) : Outcome :=
  if s.rxFault = .none ∧ classify s.esc b ≠ c then .refused (.notOfClass c) else .next (receive b s)

/-- Received bytes given to the RX byte port as a batch: "each RXB a step of its own, in order" (44_stream_framer.md R153),
before anything presented later (log 17). Nothing is returned on the result port (10_state.md R25). -/
def State.present (s : State) (bytes : List Byte) : State :=
  { s.noReply with pending := bytes.map .rx ++ s.pending }

/-! ## The receive instructions -/

/-- RXB (44_stream_framer.md R143). -/
def execRxb (b : Byte) (s : State) : Outcome := .next (receive b s)

/-- RXCHUNK (44_stream_framer.md R153). -/
def execRxchunk (bytes : List Byte) (s : State) : Outcome := .next (s.present bytes)

/-- RX.ESC (R144, R146). -/
def execRxEsc (s : State) : Outcome := receiveAs .escape dle s

/-- RX.DATA (R144, R146). -/
def execRxData (b : Byte) (s : State) : Outcome := receiveAs .data b s

/-- RX.START (R145, R148). -/
def execRxStart (s : State) : Outcome := receiveAs .start stx s

/-- RX.END (R145, R149). -/
def execRxEnd (s : State) : Outcome := receiveAs .finish etx s

/-- RX.ABORT (R145, R150). -/
def execRxAbort (s : State) : Outcome := receiveAs .abort abt s

/-- RX.LITDLE (R145, R147). -/
def execRxLitDle (s : State) : Outcome := receiveAs .litDle dle s

/-- RX.OTHER (R145, R151). -/
def execRxOther (b : Byte) (s : State) : Outcome := receiveAs .other b s

/-- WIRE.START: the bytes 10 02, each an RXB of its own (30_encoding.md R67, 20_memory.md R40). -/
def execWireStart (s : State) : Outcome := .next (s.present [dle, stx])

/-- WIRE.END: the bytes 10 03. -/
def execWireEnd (s : State) : Outcome := .next (s.present [dle, etx])

/-- WIRE.ABORT: the bytes 10 08. -/
def execWireAbort (s : State) : Outcome := .next (s.present [dle, abt])

/-- WIRE.LITDLE: the bytes 10 10. -/
def execWireLitDle (s : State) : Outcome := .next (s.present [dle, dle])

end Sys2Proof.Machine
end

