-- ==== Sys2Proof/Machine/Reset.lean ====
section
/-! DEFINITION. RESET (70_reset_and_hazards.md R200). -/

namespace Sys2Proof.Machine

/-- RESET (R200): the four state elements take their reset values; "no event is emitted", "nothing is written to the TX
stream". It returns nothing (10_state.md R25). -/
def execReset (s : State) : Outcome :=
  .next { s with mode := .idle, esc := false, buf := [], rxFault := .none, result := none }

end Sys2Proof.Machine
end

