-- ==== Sys2Proof/Machine/Dispatch.lean ====
section
/-! DEFINITION. One arm per row of spec/opcode_table.json: each calls the meaning of its instruction. -/

namespace Sys2Proof.Machine

def exec (i : Instr) (s : State) : Host.Outcome State Fault Refusal :=
  match i with
  | .reset => Sys2Proof.Machine.execReset s
  | .crc16 b => Sys2Proof.Machine.execCrc16 b s
  | .pdenc v => Sys2Proof.Machine.execPdenc v s
  | .pddec p => Sys2Proof.Machine.execPddec p s
  | .fencS t => Sys2Proof.Machine.execFencS t s
  | .fencB v => Sys2Proof.Machine.execFencB v s
  | .fencW v => Sys2Proof.Machine.execFencW v s
  | .fencL v => Sys2Proof.Machine.execFencL v s
  | .fencP v => Sys2Proof.Machine.execFencP v s
  | .fdec b => Sys2Proof.Machine.execFdec b s
  | .frenc f t c fs => Sys2Proof.Machine.execFrenc f t c fs s
  | .frdec b => Sys2Proof.Machine.execFrdec b s
  | .frvfy b => Sys2Proof.Machine.execFrvfy b s
  | .esc b => Sys2Proof.Machine.execEsc b s
  | .send f t c fs => Sys2Proof.Machine.execSend f t c fs s
  | .rxb b => Sys2Proof.Machine.execRxb b s
  | .rxchunk b => Sys2Proof.Machine.execRxchunk b s
  | .rxEsc => Sys2Proof.Machine.execRxEsc s
  | .rxData b => Sys2Proof.Machine.execRxData b s
  | .rxStart => Sys2Proof.Machine.execRxStart s
  | .rxEnd => Sys2Proof.Machine.execRxEnd s
  | .rxAbort => Sys2Proof.Machine.execRxAbort s
  | .rxLitDle => Sys2Proof.Machine.execRxLitDle s
  | .rxOther b => Sys2Proof.Machine.execRxOther b s
  | .wireStart => Sys2Proof.Machine.execWireStart s
  | .wireEnd => Sys2Proof.Machine.execWireEnd s
  | .wireAbort => Sys2Proof.Machine.execWireAbort s
  | .wireLitDle => Sys2Proof.Machine.execWireLitDle s
  | .tagS w => Sys2Proof.Machine.execTagS w s
  | .tagB w => Sys2Proof.Machine.execTagB w s
  | .tagW w => Sys2Proof.Machine.execTagW w s
  | .tagL w => Sys2Proof.Machine.execTagL w s
  | .tagP w => Sys2Proof.Machine.execTagP w s

end Sys2Proof.Machine
end

