-- ==== Sys2Proof/Machine/Step.lean ====
section
/-! DEFINITION. One step: the oldest transaction on the ports is taken, decoded and run. -/

namespace Sys2Proof.Machine

/-- One step. CORE "starts nothing" (00_scope.md R8): with no transaction presented nothing happens (log 3), and
the result port, which holds nothing between operations (10_state.md R25), is empty. A transaction
that decodes to no instruction is refused (30_encoding.md R76, 60_exceptions.md R178). -/
def step (s : State) : Host.Outcome State Fault Refusal :=
  match s.pending with
  | [] => .next s.noReply
  | t :: rest =>
    match decode s.cfg s.esc t with
    | .ok i => exec i { s with pending := rest }
    | .error r => .refused (.rejected r)

/-- `s` with the transaction of a table word presented before every other, so that the next step takes it; for the byte of
RX.ESC, which stands under `esc = 0`, with no DLE pending (logs 3, 5). -/
def State.withFetchWord (s : State) (nbits w : Nat) : State :=
  { s with
    pending := tableTransaction s.cfg nbits w :: s.pending
    esc := if tableTransaction s.cfg nbits w = .rx dle then false else s.esc }

end Sys2Proof.Machine
end

