-- ==== Sys2Proof/Machine/Flags.lean ====
section
/-! DEFINITION. CORE has no flags register and no condition codes (10_state.md R12). Its status values are the error kind an
operation raises, `crc_ok` (in Machine/FrameCodec.lean) and the sticky `rx_fault`; here are the numeric codes the spec gives
the first and the last. -/

namespace Sys2Proof.Machine

/-- The code of an error kind on the result port (60_exceptions.md R170). -/
def CodecError.code : CodecError → Nat
  | .rangeError _ => 1
  | .unknownFieldType _ _ => 2
  | .frameFormat _ _ => 3
  | .checksumMismatch _ _ => 4
  | .transportError => 5
  | .digitError _ _ => 6

/-- The code on the result port: 0 when "the operation returned a result" (60_exceptions.md R170). -/
def Reply.code : Reply → Nat
  | .u16 _ => 0
  | .bytes _ => 0
  | .int _ => 0
  | .field _ _ => 0
  | .message _ => 0
  | .ok => 0
  | .error e => e.code

/-- The codes of `rx_fault`, "readable only by a model, not on a port" (60_exceptions.md R177). -/
def RxFault.code : RxFault → Nat
  | .none => 0
  | .escapeViolation => 1
  | .rxOverflow => 2

end Sys2Proof.Machine
end

