-- ==== Sys2Proof/Safety.lean ====
section
/-! DEFINITION. What a legal state is, and what a safe one: the invariants claims are stated with. -/

namespace Sys2Proof.Machine

/-- The framer invariant of 10_state.md section 2: `mode = IDLE -> buf = []`; `mode = IN_MESSAGE -> len(buf) >= 1 and
buf[0] = 0x02`. The spec states it "while `rx_fault = None`"; a sticky fault leaves `mode` and `buf`, so it is stated here of
every state. -/
abbrev State.FramerOk (s : State) : Prop :=
  match s.mode with
  | .idle => s.buf = []
  | .inMessage => s.buf.head? = some stx

/-- `buf` "is a byte sequence of length 0 .. `RX_BUF_MAX`" (10_state.md R15). -/
abbrev State.BufBounded (s : State) : Prop :=
  match s.cfg.rxBufMax with
  | none => True
  | some m => s.buf.length ≤ m

/-- A legal state: legal parameters, the framer invariant, the buffer within its capacity. -/
structure State.Inv (s : State) : Prop where
  cfg : s.cfg.wf = true
  framer : s.FramerOk
  bounded : s.BufBounded

/-- The receive side is running: no sticky fault (60_exceptions.md R177). -/
abbrev State.Receiving (s : State) : Prop := s.rxFault = .none

/-- The four elements that are the spec's state (00_scope.md R9), in the notation of 30_encoding.md R77 with `rx_fault`. -/
def State.framer (s : State) : Mode × Bool × List Byte × RxFault := (s.mode, s.esc, s.buf, s.rxFault)

/-- `n` steps of the machine (Host/Core.lean), for claims about several RXB steps in a row. -/
def steps (n : Nat) (s : State) : Host.Outcome State Fault Refusal :=
  match n with
  | 0 => .next s
  | n + 1 =>
    match step s with
    | .next t => steps n t
    | .fault r => .fault r
    | .refused r => .refused r

/-! ## Reference forms claims compare the model with, written as the spec writes them -/

/-- One input byte of the bit-serial computation (40_checksum.md R83): `crc <- crc xor (b << 8)`, then eight shifts with a
conditional exclusive-or. -/
def bitSerialByte (crc : U16) (b : Byte) : U16 :=
  Nat.repeat (fun r => if r.getLsbD 15 then (r <<< 1) ^^^ 0x1021#16 else r <<< 1) 8 (crc ^^^ (b.setWidth 16 <<< 8))

/-- The bit-serial CRC (40_checksum.md R83): "start with `crc = 0`". -/
def bitSerialCrc (s : List Byte) : U16 := s.foldl bitSerialByte 0

/-- `U(i)` as 44_stream_framer.md R140 writes it, by the offset in a sequence `s`. -/
def escUnitAt (s : List Byte) (i : Nat) : List Byte :=
  if s[i]? = some dle then [dle, dle]
  else if i = 0 ∧ s[i]? = some stx then [dle, stx]
  else if i + 1 = s.length ∧ s[i]? = some etx then [dle, etx]
  else s[i]?.toList

/-- `U(0) ++ U(1) ++ ... ++ U(n-1)` (44_stream_framer.md R140). -/
def escByOffset (s : List Byte) : List Byte := (List.range s.length).flatMap (escUnitAt s)

/-- The operation that encodes a Field (42_field.md R100). -/
def encoderOf : Field → Instr
  | .string t => .fencS t
  | .byte v => .fencB v
  | .word v => .fencW v
  | .long v => .fencL v
  | .packed v => .fencP v

/-- The wire forms that decode to a Field (30_encoding.md R61 to R65, 42_field.md R107 to R111), those no FENC produces among them:
a String may hold codes from 0x80 (R107). -/
def fieldForm (c : Config) : Field → List Byte → Prop
  | .string t, b => b = [c.tagS] ++ t ++ [0x00] ∧ ∀ x ∈ t, x ≠ 0x00
  | .byte v, b => b = [c.tagB, v]
  | .word v, b => b = [c.tagW, v.extractLsb' 0 8, v.extractLsb' 8 8]
  | .long v, b =>
    b = [c.tagL, v.extractLsb' 0 8, v.extractLsb' 8 8, v.extractLsb' 16 8, v.extractLsb' 24 8]
  | .packed v, b => ∃ p : List Byte, b = [c.tagP] ++ p ∧ p.length = 6 ∧ pdDec p = .ok v

/-- A frame around a field area (30_encoding.md R50), the 12 header bytes and the two checksum bytes whatever they are. -/
def frameAround (header area checksum : List Byte) : List Byte := [stx] ++ header ++ area ++ checksum ++ [etx]

/-- `RXB b0; RXB b1; ...; RXB bk`, one after the other (44_stream_framer.md R153). -/
def rxbAll : List Byte → State → Outcome
  | [], s => .next s
  | b :: bytes, s =>
    match exec (.rxb b) s with
    | .next t => rxbAll bytes t
    | .fault r => .fault r
    | .refused r => .refused r

/-- The pure operations of 20_memory.md R41, the field decodes by tag among them. -/
def pureOperation : Instr → Bool
  | .crc16 _ | .pdenc _ | .pddec _ | .fencS _ | .fencB _ | .fencW _ | .fencL _ | .fencP _ | .fdec _
  | .frenc _ _ _ _ | .frdec _ | .frvfy _ | .esc _ | .tagS _ | .tagB _ | .tagW _ | .tagL _ | .tagP _ => true
  | .reset | .send _ _ _ _ | .rxb _ | .rxchunk _ | .rxEsc | .rxData _ | .rxStart | .rxEnd | .rxAbort | .rxLitDle
  | .rxOther _ | .wireStart | .wireEnd | .wireAbort | .wireLitDle => false

/-- RXB and its class rows: the operation that "reads and writes state" (20_memory.md R41). -/
def receiveOperation : Instr → Bool
  | .rxb _ | .rxEsc | .rxData _ | .rxStart | .rxEnd | .rxAbort | .rxLitDle | .rxOther _ => true
  | .reset | .send _ _ _ _ | .rxchunk _ | .wireStart | .wireEnd | .wireAbort | .wireLitDle
  | .crc16 _ | .pdenc _ | .pddec _ | .fencS _ | .fencB _ | .fencW _ | .fencL _ | .fencP _ | .fdec _
  | .frenc _ _ _ _ | .frdec _ | .frvfy _ | .esc _ | .tagS _ | .tagB _ | .tagW _ | .tagL _ | .tagP _ => false

end Sys2Proof.Machine
end

