-- ==== Sys2Proof/Certificates/Slice0/Obligations.lean ====
section
/-! DEFINITION. The statements for the provers, one definition each; OBLIGATIONS.json says which rule of spec/ each states. -/

open Sys2Proof Sys2Proof.Machine

/-! ## Decoding and the step -/

/-- 30_encoding.md R71: each of the fifteen assigned words selects its operation, with any operands of its type. -/
def Obligations.AssignedWordsSelectTheirOperations : Prop :=
  ∀ (c : Config) (e : Bool) (s : List Byte) (v : Int) (v8 : Byte) (v16 : U16) (v32 : U32) (k : U16) (fs : List Field),
    decode c e (.command 0x00 .nothing) = .ok .reset
    ∧ decode c e (.command 0x01 (.bytes s)) = .ok (.crc16 s)
    ∧ decode c e (.command 0x02 (.int v)) = .ok (.pdenc v)
    ∧ decode c e (.command 0x03 (.bytes s)) = .ok (.pddec s)
    ∧ decode c e (.command 0x04 (.bytes s)) = .ok (.fencS s)
    ∧ decode c e (.command 0x14 (.u8 v8)) = .ok (.fencB v8)
    ∧ decode c e (.command 0x24 (.u16 v16)) = .ok (.fencW v16)
    ∧ decode c e (.command 0x34 (.u32 v32)) = .ok (.fencL v32)
    ∧ decode c e (.command 0x44 (.int v)) = .ok (.fencP v)
    ∧ decode c e (.command 0x05 (.bytes s)) = .ok (.fdec s)
    ∧ decode c e (.command 0x06 (.header v16 v32 k fs)) = .ok (.frenc v16 v32 k fs)
    ∧ decode c e (.command 0x07 (.bytes s)) = .ok (.frdec s)
    ∧ decode c e (.command 0x08 (.bytes s)) = .ok (.frvfy s)
    ∧ decode c e (.command 0x09 (.bytes s)) = .ok (.esc s)
    ∧ decode c e (.command 0x0A (.header v16 v32 k fs)) = .ok (.send v16 v32 k fs)

/-- 30_encoding.md R76: a word with `cw[7] = 1`, with `ft ≠ 0` and `op ≠ 4`, with `ft > 4` and `op = 4`, or with `op > 0xA`,
is refused, whatever operands come with it. -/
def Obligations.UnassignedWordsAreRefused : Prop :=
  ∀ (s : State) (cw : Byte) (operands : Operands) (rest : List Transaction),
    s.pending = .command cw operands :: rest →
    (cw.toNat / 128 = 1
      ∨ (cw.toNat / 16 % 8 ≠ 0 ∧ cw.toNat % 16 ≠ 4)
      ∨ (cw.toNat / 16 % 8 > 4 ∧ cw.toNat % 16 = 4)
      ∨ cw.toNat % 16 > 10) →
    step s = .refused (.rejected (.unassignedWord cw))

/-- 30_encoding.md R70: the seven classes of a received byte, by `esc` and the byte. -/
def Obligations.ReceivedByteHasTheClassOfItsPattern : Prop :=
  ∀ (c : Config) (b : Byte),
    decode c false (.rx 0x10) = .ok .rxEsc
    ∧ (b ≠ 0x10 → decode c false (.rx b) = .ok (.rxData b))
    ∧ decode c true (.rx 0x02) = .ok .rxStart
    ∧ decode c true (.rx 0x03) = .ok .rxEnd
    ∧ decode c true (.rx 0x08) = .ok .rxAbort
    ∧ decode c true (.rx 0x10) = .ok .rxLitDle
    ∧ (b ∉ [0x02, 0x03, 0x08, 0x10] → decode c true (.rx b) = .ok (.rxOther b))

/-- The decoder reads back every well-formed instruction the encoder presents, with every operand, under every legal choice
of the tags, a class row under the `esc` it stands under (30_encoding.md R70); RXB reads back as the class row of its
byte. -/
def Obligations.DecodeOfEncodeIsTheInstruction : Prop :=
  ∀ (c : Config) (e : Bool) (i : Instr),
    c.wf = true → i.wf = true → (∀ b, i.needsEsc = some b → e = b) →
    decode c e (encode c i) = .ok (i.seenBy e)

/-- The other direction, on the command port and the RX byte port: what a transaction decodes to is presented by that very
transaction, so no bit of the word and no operand is dropped. -/
def Obligations.EncodeOfDecodeIsTheTransaction : Prop :=
  ∀ (c : Config) (e : Bool) (i : Instr) (cw b : Byte) (operands : Operands),
    (decode c e (.command cw operands) = .ok i → encode c i = .command cw operands)
    ∧ (decode c e (.rx b) = .ok i → encode c i = .rx b)

/-- A step takes the oldest transaction and runs the instruction it decodes to; with nothing presented it only empties the result
port, which holds nothing between operations (10_state.md R25). That such a step exists is the model's choice, log 3. -/
def Obligations.StepRunsTheDecodedInstruction : Prop :=
  ∀ (s : State) (t : Transaction) (rest : List Transaction) (i : Instr),
    (s.pending = t :: rest → decode s.cfg s.esc t = .ok i → step s = exec i { s with pending := rest })
    ∧ (s.pending = [] → step s = .next { s with result := none })

/-! ## Reset and invariants -/

/-- 70_reset_and_hazards.md R201: the state CORE starts in is the one RESET produces, "no element has an unspecified reset
value"; and nothing is on the ports (10_state.md section 8). -/
def Obligations.StartStateIsTheResetState : Prop :=
  State.reset.mode = .idle ∧ State.reset.esc = false ∧ State.reset.buf = [] ∧ State.reset.rxFault = .none
  ∧ State.reset.result = none ∧ State.reset.tx = [] ∧ State.reset.events = []
  ∧ (∀ s t, exec .reset s = .next t → t.framer = State.reset.framer)

/-- 70_reset_and_hazards.md R200: RESET sets the four elements, from every state, a faulted one too; no event, nothing on the
TX stream, and it changes nothing else but the result port, which it leaves empty (10_state.md R25). -/
def Obligations.ResetSetsTheFourElements : Prop :=
  ∀ s : State, decode s.cfg s.esc (.command 0x00 .nothing) = .ok .reset ∧ ∃ t : State, exec .reset s = .next t
    ∧ t.mode = .idle ∧ t.esc = false ∧ t.buf = [] ∧ t.rxFault = .none
    ∧ t.events = s.events ∧ t.tx = s.tx ∧ t.result = none
    ∧ t.cfg = s.cfg ∧ t.pending = s.pending ∧ t.transport = s.transport ∧ t.writes = s.writes

/-- The state after reset meets the invariant. -/
def Obligations.InvariantHoldsAtReset : Prop := State.reset.Inv

/-- Every step keeps the invariant: legal parameters, an empty buffer in IDLE, the start marker at offset 0 in IN_MESSAGE
(10_state.md section 2), and the buffer within its capacity (R15). -/
def Obligations.EveryStepKeepsTheInvariant : Prop :=
  ∀ s t : State, s.Inv → step s = .next t → t.Inv

/-- No operation writes the parameters. -/
def Obligations.NoOperationChangesTheParameters : Prop :=
  ∀ (i : Instr) (s t : State), exec i s = .next t → t.cfg = s.cfg

/-- Only RXB emits, at most one event, behind the events emitted before. -/
def Obligations.OnlyReceivedBytesEmitAndAtMostOnce : Prop :=
  ∀ (i : Instr) (s t : State), exec i s = .next t →
    t.events = s.events ∨ (receiveOperation i = true ∧ ∃ e, t.events = s.events ++ [e])

/-- Only SEND writes the TX stream, and only behind what is there. -/
def Obligations.OnlySendExtendsTheTxStream : Prop :=
  ∀ (i : Instr) (s t : State), exec i s = .next t →
    t.tx = s.tx ∨ ((∃ f k c fs, i = .send f k c fs) ∧ ∃ w, t.tx = s.tx ++ w)

/-- A sticky fault is left by RESET only, and until then the framer stands still and nothing is emitted (that RXB answers the
unchanged state, where R154 gives it no step, is the model's choice, log 14). -/
def Obligations.StickyFaultIsLeftOnlyByReset : Prop :=
  ∀ (i : Instr) (s t : State), s.rxFault ≠ .none → i ≠ .reset → exec i s = .next t →
    t.framer = s.framer ∧ t.events = s.events

/-! ## Frames and independence -/

/-- The pure operations: the only thing they change is the result port, and what they put there depends on the operands and
the parameters alone; where one is refused it is refused in every state. -/
def Obligations.PureOperationsOnlyAnswer : Prop :=
  ∀ (i : Instr) (s t : State), pureOperation i = true → s.cfg = t.cfg →
    (∃ r, exec i s = .next { s with result := some r } ∧ exec i t = .next { t with result := some r })
    ∨ (∃ r, exec i s = .refused r ∧ exec i t = .refused r)

/-- What RXB and its class rows leave unchanged: the parameters, the TX stream, the transactions waiting, the transport's
answers. They return nothing, and what an operation before them returned is neither kept nor looked at (10_state.md R10,
R25). -/
def Obligations.ReceiveChangesOnlyTheFramerAndEvents : Prop :=
  ∀ (i : Instr) (s t : State), receiveOperation i = true → exec i s = .next t →
    t.cfg = s.cfg ∧ t.tx = s.tx ∧ t.pending = s.pending ∧ t.transport = s.transport ∧ t.writes = s.writes
    ∧ t.result = none ∧ ∀ r, exec i { s with result := r } = .next t

/-- What SEND leaves unchanged: the framer, the events, the parameters, the transactions waiting. -/
def Obligations.SendChangesOnlyItsPorts : Prop :=
  ∀ (flag : U16) (token : U32) (command : U16) (fs : List Field) (s t : State),
    exec (.send flag token command fs) s = .next t →
    t.framer = s.framer ∧ t.events = s.events ∧ t.cfg = s.cfg ∧ t.pending = s.pending

/-- SEND and RXB commute: they share no state, so the one's effect is the same before and after the other, whatever the
transport answers. SEND returns the same reply in both orders; it is on the result port where SEND came last. -/
def Obligations.SendAndReceiveCommute : Prop :=
  ∀ (flag : U16) (token : U32) (command : U16) (fs : List Field) (b : Byte) (s t u : State),
    exec (.send flag token command fs) s = .next t → exec (.rxb b) s = .next u →
    ∃ v w, exec (.rxb b) t = .next v ∧ exec (.send flag token command fs) u = .next w
      ∧ w.result = t.result ∧ v = { w with result := none }

/-! ## ChecksumEngine -/

/-- 40_checksum.md R82 with R81: the fold of `CrcStep` from 0, and its corner cases. -/
def Obligations.Crc16FoldsTheTableStep : Prop :=
  ∀ (b : Byte) (bytes : List Byte) (n : Nat) (s : State),
    decode s.cfg s.esc (.command 0x01 (.bytes bytes)) = .ok (.crc16 bytes)
    ∧ exec (.crc16 bytes) s
      = .next { s with result := some (.u16 (bytes.foldl
          (fun crc x => (crc <<< 8) ^^^ crcTable (crc.extractLsb' 8 8 ^^^ x)) 0#16)) }
    ∧ exec (.crc16 []) s = .next { s with result := some (.u16 0x0000) }
    ∧ exec (.crc16 [b]) s = .next { s with result := some (.u16 (crcTable b)) }
    ∧ exec (.crc16 (List.replicate n 0x00)) s = .next { s with result := some (.u16 0x0000) }
    ∧ exec (.crc16 (List.replicate n 0x00 ++ bytes)) s = exec (.crc16 bytes) s

/-- 40_checksum.md section 3: the table-driven CRC is the bit-serial division. -/
def Obligations.Crc16IsTheBitSerialDivision : Prop :=
  ∀ (bytes : List Byte) (s : State),
    exec (.crc16 bytes) s = .next { s with result := some (.u16 (bitSerialCrc bytes)) }

/-- 40_checksum.md section 3: a message followed by its CRC, high byte first, has the CRC 0. -/
def Obligations.CrcOfMessageWithItsCrcIsZero : Prop :=
  ∀ (bytes : List Byte) (c : U16) (s : State),
    exec (.crc16 bytes) s = .next { s with result := some (.u16 c) } →
    exec (.crc16 (bytes ++ [c.extractLsb' 8 8, c.extractLsb' 0 8])) s = .next { s with result := some (.u16 0) }

/-! ## PackedDecimalCodec -/

/-- 41_packed_decimal.md R90: in the domain, six bytes, each the two digits of its place of the magnitude; out of it,
RangeError with the value, and nothing else. -/
def Obligations.PdencPacksTheTwelveDigits : Prop :=
  ∀ (v : Int) (s : State),
    decode s.cfg s.esc (.command 0x02 (.int v)) = .ok (.pdenc v)
    ∧ (-500000000000 ≤ v ∧ v ≤ 499999999999 →
      ∃ p : List Byte, exec (.pdenc v) s = .next { s with result := some (.bytes p) } ∧ p.length = 6
        ∧ ∀ k (h : k < p.length) (u : Nat), (u : Int) = (if v < 0 then v + 1000000000000 else v) →
          p[k].toNat / 16 = u / (10 * 100 ^ k) % 10 ∧ p[k].toNat % 16 = u / 100 ^ k % 10)
    ∧ (¬(-500000000000 ≤ v ∧ v ≤ 499999999999) →
      exec (.pdenc v) s = .next { s with result := some (.error (.rangeError v)) })

/-- 41_packed_decimal.md R91: six bytes of decimal digits give the signed number; a digit above 9 is DigitError, that of the
highest offset; another length is refused. -/
def Obligations.PddecReadsTheTwelveDigits : Prop :=
  ∀ (p0 p1 p2 p3 p4 p5 : Byte) (p : List Byte) (s : State),
    decode s.cfg s.esc (.command 0x03 (.bytes p)) = .ok (.pddec p)
    ∧ ((∀ b ∈ [p0, p1, p2, p3, p4, p5], b.toNat / 16 ≤ 9 ∧ b.toNat % 16 ≤ 9) →
      ∀ u : Nat,
        u = (p0.toNat / 16 * 10 + p0.toNat % 16) + (p1.toNat / 16 * 10 + p1.toNat % 16) * 100
          + (p2.toNat / 16 * 10 + p2.toNat % 16) * 100 ^ 2 + (p3.toNat / 16 * 10 + p3.toNat % 16) * 100 ^ 3
          + (p4.toNat / 16 * 10 + p4.toNat % 16) * 100 ^ 4 + (p5.toNat / 16 * 10 + p5.toNat % 16) * 100 ^ 5 →
        exec (.pddec [p0, p1, p2, p3, p4, p5]) s = .next { s with
          result := some (.int (if u ≥ 500000000000 then (u : Int) - 1000000000000 else u)) })
    ∧ (∀ k (h : k < p.length), p.length = 6 → p[k].toNat / 16 > 9 ∨ p[k].toNat % 16 > 9 →
        (∀ j (g : j < p.length), k < j → p[j].toNat / 16 ≤ 9 ∧ p[j].toNat % 16 ≤ 9) →
        exec (.pddec p) s = .next { s with result := some (.error (.digitError k p[k])) })
    ∧ (p.length ≠ 6 → exec (.pddec p) s = .refused .notSixBytes)

/-- 41_packed_decimal.md R92: decoding what was encoded gives the value, for every value of the domain. -/
def Obligations.PddecInvertsPdenc : Prop :=
  ∀ (v : Int) (s : State), -500000000000 ≤ v → v ≤ 499999999999 →
    ∃ p : List Byte, exec (.pdenc v) s = .next { s with result := some (.bytes p) }
      ∧ exec (.pddec p) s = .next { s with result := some (.int v) }

/-- 41_packed_decimal.md, the converse law: encoding what was decoded gives the payload, for every payload of decimal
digits. -/
def Obligations.PdencInvertsPddec : Prop :=
  ∀ (p : List Byte) (s : State), p.length = 6 → (∀ b ∈ p, b.toNat / 16 ≤ 9 ∧ b.toNat % 16 ≤ 9) →
    ∃ v : Int, exec (.pddec p) s = .next { s with result := some (.int v) }
      ∧ exec (.pdenc v) s = .next { s with result := some (.bytes p) }

/-! ## FieldCodec -/

/-- 42_field.md R101: the tag, the codes, one NUL; a text with a code outside 0x01..0x7F is refused. -/
def Obligations.FencStringFramesTheText : Prop :=
  ∀ (t : List Byte) (s : State),
    decode s.cfg s.esc (.command 0x04 (.bytes t)) = .ok (.fencS t)
    ∧ ((∀ b ∈ t, 0x01 ≤ b.toNat ∧ b.toNat ≤ 0x7F) →
      exec (.fencS t) s = .next { s with result := some (.bytes ([s.cfg.tagS] ++ t ++ [0x00])) })
    ∧ (¬(∀ b ∈ t, 0x01 ≤ b.toNat ∧ b.toNat ≤ 0x7F) → exec (.fencS t) s = .refused .textNotAscii)

/-- 42_field.md R102, R103, R104: the tag and the value, least significant byte first. -/
def Obligations.FencNumbersAreLittleEndian : Prop :=
  ∀ (v8 : Byte) (v16 : U16) (v32 : U32) (s : State),
    decode s.cfg s.esc (.command 0x14 (.u8 v8)) = .ok (.fencB v8)
    ∧ decode s.cfg s.esc (.command 0x24 (.u16 v16)) = .ok (.fencW v16)
    ∧ decode s.cfg s.esc (.command 0x34 (.u32 v32)) = .ok (.fencL v32)
    ∧ exec (.fencB v8) s = .next { s with result := some (.bytes [s.cfg.tagB, v8]) }
    ∧ exec (.fencW v16) s = .next { s with
        result := some (.bytes [s.cfg.tagW, v16.extractLsb' 0 8, v16.extractLsb' 8 8]) }
    ∧ exec (.fencL v32) s = .next { s with
        result := some (.bytes [s.cfg.tagL, v32.extractLsb' 0 8, v32.extractLsb' 8 8, v32.extractLsb' 16 8,
          v32.extractLsb' 24 8]) }

/-- 42_field.md R105: the tag and what PDENC gives, or PDENC's RangeError. -/
def Obligations.FencPackedIsTagThenPdenc : Prop :=
  ∀ (v : Int) (s : State),
    decode s.cfg s.esc (.command 0x44 (.int v)) = .ok (.fencP v)
    ∧ (-500000000000 ≤ v ∧ v ≤ 499999999999 →
      ∃ p : List Byte, exec (.pdenc v) s = .next { s with result := some (.bytes p) }
        ∧ exec (.fencP v) s = .next { s with result := some (.bytes ([s.cfg.tagP] ++ p)) })
    ∧ (¬(-500000000000 ≤ v ∧ v ≤ 499999999999) →
      exec (.fencP v) s = .next { s with result := some (.error (.rangeError v)) })

/-- 42_field.md R112: decoding an encoded well-formed Field, whatever follows it, gives the Field and its length. -/
def Obligations.FdecInvertsFenc : Prop :=
  ∀ (f : Field) (s : State), s.cfg.wf = true → f.wf = true →
    ∃ b : List Byte, exec (encoderOf f) s = .next { s with result := some (.bytes b) }
      ∧ b.length = f.encodedLength
      ∧ ∀ rest, exec (.fdec (b ++ rest)) s = .next { s with result := some (.field f f.encodedLength) }

/-- FDEC is the decode of the field format its first byte selects; an unknown tag raises, even with nothing behind it; an
empty sequence is refused. That the formats are rows of their own is the model's choice (log 6). -/
def Obligations.FdecDispatchesOnTheTag : Prop :=
  ∀ (s : State) (tag : Byte) (w : List Byte), s.cfg.wf = true →
    exec (.fdec (s.cfg.tagS :: w)) s = exec (.tagS w) s
    ∧ exec (.fdec (s.cfg.tagB :: w)) s = exec (.tagB w) s
    ∧ exec (.fdec (s.cfg.tagW :: w)) s = exec (.tagW w) s
    ∧ exec (.fdec (s.cfg.tagL :: w)) s = exec (.tagL w) s
    ∧ exec (.fdec (s.cfg.tagP :: w)) s = exec (.tagP w) s
    ∧ (tag ∉ s.cfg.tags → exec (.fdec (tag :: w)) s = .next { s with result := some (.error (.unknownFieldType tag 0)) })
    ∧ exec (.fdec []) s = .refused .emptyField

/-- 42_field.md R107: the codes before the first NUL, the NUL consumed; without a NUL, FrameFormatError. The payload at any
offset `q`, in the function every field decode goes through, and in the TAG_S row, which decodes a field alone (the
model's choice, log 6). -/
def Obligations.StringFieldEndsAtTheFirstNul : Prop :=
  ∀ (t rest : List Byte) (q : Nat) (s : State), (∀ b ∈ t, b ≠ 0x00) →
    fdecString q (t ++ [0x00] ++ rest) = .ok (.string t, rest)
    ∧ fdecString q t = .error (.frameFormat .stringNotTerminated q)
    ∧ exec (.tagS (t ++ [0x00] ++ rest)) s = .next { s with result := some (.field (.string t) (t.length + 2)) }
    ∧ exec (.tagS t) s = .next { s with result := some (.error (.frameFormat .stringNotTerminated 1)) }

/-- 42_field.md R108, R109, R110: the fixed-width payloads directly after the tag, little-endian, and FrameFormatError when
fewer bytes are there; the payload at any offset `q`, and in the TAG_B, TAG_W and TAG_L rows, which decode a field
alone (the model's choice, log 6). -/
def Obligations.NumberFieldsReadTheirWidth : Prop :=
  ∀ (b0 b1 b2 b3 : Byte) (w : List Byte) (q : Nat) (s : State),
    fdecByte q (b0 :: w) = .ok (.byte b0, w) ∧ fdecByte q [] = .error (.frameFormat .byteTruncated q)
    ∧ fdecWord q (b0 :: b1 :: w) = .ok (.word (b1 ++ b0), w)
    ∧ (w.length < 2 → fdecWord q w = .error (.frameFormat .wordTruncated q))
    ∧ fdecLong q (b0 :: b1 :: b2 :: b3 :: w) = .ok (.long (b3 ++ b2 ++ b1 ++ b0), w)
    ∧ (w.length < 4 → fdecLong q w = .error (.frameFormat .longTruncated q))
    ∧ exec (.tagB (b0 :: w)) s = .next { s with result := some (.field (.byte b0) 2) }
    ∧ exec (.tagW (b0 :: b1 :: w)) s = .next { s with result := some (.field (.word (b1 ++ b0)) 3) }
    ∧ exec (.tagL (b0 :: b1 :: b2 :: b3 :: w)) s
        = .next { s with result := some (.field (.long (b3 ++ b2 ++ b1 ++ b0)) 5) }
    ∧ exec (.tagB []) s = .next { s with result := some (.error (.frameFormat .byteTruncated 1)) }
    ∧ (w.length < 2 → exec (.tagW w) s = .next { s with result := some (.error (.frameFormat .wordTruncated 1)) })
    ∧ (w.length < 4 → exec (.tagL w) s = .next { s with result := some (.error (.frameFormat .longTruncated 1)) })

/-- 42_field.md R111: six payload bytes, decoded as PDDEC decodes them: the value when every digit is decimal, PDDEC's error
when one is not; fewer bytes are FrameFormatError, whatever they hold. The payload at any offset `q`, and in
the TAG_P row, which decodes a field alone (the model's choice, log 6). -/
def Obligations.PackedFieldIsPddecOfSixBytes : Prop :=
  ∀ (p w : List Byte) (q : Nat) (s : State),
    (p.length = 6 → (∀ b ∈ p, b.toNat / 16 ≤ 9 ∧ b.toNat % 16 ≤ 9) →
      ∃ v, exec (.pddec p) s = .next { s with result := some (.int v) } ∧ fdecPacked q (p ++ w) = .ok (.packed v, w)
        ∧ exec (.tagP (p ++ w)) s = .next { s with result := some (.field (.packed v) 7) })
    ∧ (p.length = 6 → ¬(∀ b ∈ p, b.toNat / 16 ≤ 9 ∧ b.toNat % 16 ≤ 9) →
      ∃ k b, exec (.pddec p) s = .next { s with result := some (.error (.digitError k b)) }
        ∧ fdecPacked q (p ++ w) = .error (.digitError k b)
        ∧ exec (.tagP (p ++ w)) s = .next { s with result := some (.error (.digitError k b)) })
    ∧ (w.length < 6 → fdecPacked q w = .error (.frameFormat .packedTruncated q)
      ∧ exec (.tagP w) s = .next { s with result := some (.error (.frameFormat .packedTruncated 1)) })

/-! ## FrameCodec -/

/-- 43_frame.md R120: the frame of well-formed Fields within the length limit, in the layout of 30_encoding.md R50; the first
PackedDecimal out of its domain raises RangeError with its value; a frame longer than 65535 bytes, or a text outside the
operand type (60_exceptions.md R178), is refused. Each way to end is stated for the case that only its condition holds:
which of two comes first is the model's choice (log 7). -/
def Obligations.FrencBuildsTheFrame : Prop :=
  ∀ (flag : U16) (token : U32) (command : U16) (fs before after : List Field) (v : Int) (s : State),
    decode s.cfg s.esc (.command 0x06 (.header flag token command fs)) = .ok (.frenc flag token command fs)
    ∧ ((∀ f ∈ fs, f.wf = true) → frameLength fs ≤ 65535 →
      ∃ w : List Byte, exec (.frenc flag token command fs) s = .next { s with result := some (.bytes w) }
        ∧ w.length = frameLength fs
        ∧ w[0]? = some 0x02
        ∧ memRead w 1 2 = flag.toNat ∧ memRead w 3 4 = token.toNat ∧ memRead w 7 2 = frameLength fs
        ∧ memRead w 9 2 = fs.length ∧ memRead w 11 2 = command.toNat
        ∧ (∃ parts : List (List Byte), parts.flatten = slice w 13 (w.length - 16)
          ∧ List.Forall₂ (fun f b => exec (encoderOf f) s = .next { s with result := some (.bytes b) }) fs parts)
        ∧ memRead w (w.length - 3) 2 = (crc16 (slice w 1 (w.length - 4))).toNat
        ∧ w[w.length - 1]? = some 0x03)
    ∧ ((∀ f ∈ before, f.wf = true) → inPdDomain v = false → (∀ f ∈ after, f.admitted = true) →
      frameLength (before ++ [.packed v] ++ after) ≤ 65535 →
      exec (.frenc flag token command (before ++ [.packed v] ++ after)) s
        = .next { s with result := some (.error (.rangeError v)) })
    ∧ ((∀ f ∈ fs, f.wf = true) → frameLength fs > 65535 →
      exec (.frenc flag token command fs) s = .refused .frameTooLong)
    ∧ ((∃ f ∈ fs, f.admitted = false) → (∀ f ∈ fs, f.admitted = true → f.wf = true) → frameLength fs ≤ 65535 →
      exec (.frenc flag token command fs) s = .refused .textNotAscii)

/-- 43_frame.md R121, R127: the first checks of FRDEC, in their order. -/
def Obligations.FrdecChecksLengthThenMarkers : Prop :=
  ∀ (b : List Byte) (s : State),
    (b.length < 16 → exec (.frdec b) s = .next { s with result := some (.error (.frameFormat .tooShort b.length)) })
    ∧ (16 ≤ b.length → b[0]? ≠ some 0x02 →
      exec (.frdec b) s = .next { s with result := some (.error (.frameFormat .noStartMarker 0)) })
    ∧ (16 ≤ b.length → b[0]? = some 0x02 → b[b.length - 1]? ≠ some 0x03 →
      exec (.frdec b) s = .next { s with result := some (.error (.frameFormat .noEndMarker (b.length - 1))) })

/-- 43_frame.md R123: FRDEC of a built frame is the Message it was built from, and FRVFY accepts it. -/
def Obligations.FrdecInvertsFrenc : Prop :=
  ∀ (flag : U16) (token : U32) (command : U16) (fs : List Field) (s : State),
    s.cfg.wf = true → (∀ f ∈ fs, f.wf = true) → frameLength fs ≤ 65535 →
    ∃ w : List Byte, exec (.frenc flag token command fs) s = .next { s with result := some (.bytes w) }
      ∧ exec (.frdec w) s = .next { s with result := some (.message
          { flag := flag, token := token, command := command, length := BitVec.ofNat 16 (frameLength fs), fields := fs,
            checksum := crc16 (slice w 1 (w.length - 4)) }) }
      ∧ exec (.frvfy w) s = .next { s with result := some .ok }

/-- 43_frame.md R124, R125: FRDEC compares neither the declared length nor the declared count nor the checksum with anything:
two sequences that differ at offsets 7 to 10 and N−3, N−2 only raise the same error, or give Messages that differ only in
the attributes read there. -/
def Obligations.FrdecIgnoresLengthCountAndChecksum : Prop :=
  ∀ (a b : List Byte) (s : State), a.length = b.length →
    (∀ k : Nat, k ∉ [7, 8, 9, 10, a.length - 3, a.length - 2] → a[k]? = b[k]?) →
    (∃ e, exec (.frdec a) s = .next { s with result := some (.error e) }
      ∧ exec (.frdec b) s = .next { s with result := some (.error e) })
    ∨ (∃ m n : Message, exec (.frdec a) s = .next { s with result := some (.message m) }
      ∧ exec (.frdec b) s = .next { s with result := some (.message n) }
      ∧ n = { m with length := n.length, checksum := n.checksum })

/-- 45_cross_family.md section 2: a decoded frame of N bytes has at most (N − 16) div 2 fields, and its Message carries the
header values at their fixed offsets. -/
def Obligations.FrdecMessageReadsFixedOffsets : Prop :=
  ∀ (b : List Byte) (m : Message) (s : State),
    exec (.frdec b) s = .next { s with result := some (.message m) } →
    m.fields.length ≤ (b.length - 16) / 2
    ∧ m.flag.toNat = memRead b 1 2 ∧ m.token.toNat = memRead b 3 4 ∧ m.length.toNat = memRead b 7 2
    ∧ m.command.toNat = memRead b 11 2 ∧ m.checksum.toNat = memRead b (b.length - 3) 2

/-- 43_frame.md R122: FRVFY compares the CRC of offsets 1..N−4 with the two bytes at N−3; fewer than 16 bytes are refused. -/
def Obligations.FrvfyComparesTheChecksum : Prop :=
  ∀ (b : List Byte) (s : State),
    decode s.cfg s.esc (.command 0x08 (.bytes b)) = .ok (.frvfy b)
    ∧ (16 ≤ b.length → (crc16 (slice b 1 (b.length - 4))).toNat = memRead b (b.length - 3) 2 →
      exec (.frvfy b) s = .next { s with result := some .ok })
    ∧ (16 ≤ b.length → ∀ c : U16, c.toNat = memRead b (b.length - 3) 2 → crc16 (slice b 1 (b.length - 4)) ≠ c →
      exec (.frvfy b) s = .next { s with
        result := some (.error (.checksumMismatch (crc16 (slice b 1 (b.length - 4))) c)) })
    ∧ (b.length < 16 → exec (.frvfy b) s = .refused .shortVerify)

/-! ## StreamFramer, send side -/

/-- 44_stream_framer.md R140: ESC is the units of the bytes in order, and its length. -/
def Obligations.EscConcatenatesTheUnits : Prop :=
  ∀ (b : List Byte) (s : State),
    decode s.cfg s.esc (.command 0x09 (.bytes b)) = .ok (.esc b)
    ∧ exec (.esc b) s = .next { s with result := some (.bytes (escByOffset b)) }
    ∧ (escByOffset b).length
        = b.length + b.count 0x10 + (if b[0]? = some 0x02 then 1 else 0)
          + (if b[b.length - 1]? = some 0x03 then 1 else 0)

/-- 30_encoding.md section 3: the wire form of a sequence that begins with the start marker and ends with the end marker. -/
def Obligations.WireFormOfAFrame : Prop :=
  ∀ (inner : List Byte) (s : State),
    exec (.esc ([0x02] ++ inner ++ [0x03])) s = .next { s with result := some (.bytes
      ([0x10, 0x02] ++ inner.flatMap (fun b => if b = 0x10 then [0x10, 0x10] else [b]) ++ [0x10, 0x03])) }

/-- 44_stream_framer.md R141: SEND is FRENC, then ESC, then one write, the transport's answer deciding the rest; FRENC's error
comes before any byte is written. -/
def Obligations.SendIsFrencThenEscThenOneWrite : Prop :=
  ∀ (flag : U16) (token : U32) (command : U16) (fs : List Field) (frame w : List Byte) (e : CodecError) (r : Refusal)
    (n : Nat) (s : State),
    (exec (.frenc flag token command fs) s = .next { s with result := some (.bytes frame) } →
      exec (.esc frame) s = .next { s with result := some (.bytes w) } →
      (s.writeAnswer = .accepted → exec (.send flag token command fs) s = .next { s with
        tx := s.tx ++ w, result := some (.bytes w), transport := s.transport.tail, writes := s.writes + 1 })
      ∧ (s.writeAnswer = .failed n → exec (.send flag token command fs) s = .next { s with
        tx := s.tx ++ w.take n, result := some (.error .transportError), transport := s.transport.tail,
        writes := s.writes + 1 }))
    ∧ (exec (.frenc flag token command fs) s = .next { s with result := some (.error e) } →
      exec (.send flag token command fs) s = .next { s with result := some (.error e) })
    ∧ (exec (.frenc flag token command fs) s = .refused r → exec (.send flag token command fs) s = .refused r)

/-- SEND of well-formed Fields within the length limit completes, whatever the transport answers: the wire bytes and all of
them on the line, or TransportError and some first bytes of them. -/
def Obligations.SendCompletes : Prop :=
  ∀ (flag : U16) (token : U32) (command : U16) (fs : List Field) (s : State),
    (∀ f ∈ fs, f.wf = true) → frameLength fs ≤ 65535 →
    ∃ (t : State) (w : List Byte), exec (.send flag token command fs) s = .next t
      ∧ w.length ≥ frameLength fs + 2 ∧ w.take 2 = [0x10, 0x02] ∧ w.drop (w.length - 2) = [0x10, 0x03]
      ∧ ((t.result = some (.bytes w) ∧ t.tx = s.tx ++ w)
        ∨ (t.result = some (.error .transportError) ∧ ∃ n, t.tx = s.tx ++ w.take n))

/-! ## StreamFramer, receive side -/

/-- 44_stream_framer.md R144: IDLE with no DLE pending. -/
def Obligations.RxbInIdle : Prop :=
  ∀ (b : Byte) (s : State), s.rxFault = .none → s.mode = .idle → s.esc = false →
    exec (.rxb 0x10) s = .next { s with esc := true, result := none }
    ∧ exec .rxEsc s = .next { s with esc := true, result := none }
    ∧ (b ≠ 0x10 → exec (.rxb b) s = .next { s with result := none }
      ∧ exec (.rxData b) s = .next { s with result := none })

/-- 44_stream_framer.md R145: IDLE with a DLE pending. -/
def Obligations.RxbInIdleAfterDle : Prop :=
  ∀ (b : Byte) (s : State), s.rxFault = .none → s.mode = .idle → s.esc = true →
    exec (.rxb 0x02) s = .next { s with esc := false, buf := [0x02], mode := .inMessage, result := none }
    ∧ exec .rxStart s = .next { s with esc := false, buf := [0x02], mode := .inMessage, result := none }
    ∧ (b ≠ 0x02 → exec (.rxb b) s = .next { s with esc := false, result := none })
    ∧ exec .rxEnd s = .next { s with esc := false, result := none }
    ∧ exec .rxAbort s = .next { s with esc := false, result := none }
    ∧ exec .rxLitDle s = .next { s with esc := false, result := none }
    ∧ (b ∉ [0x02, 0x03, 0x08, 0x10] → exec (.rxOther b) s = .next { s with esc := false, result := none })

/-- 44_stream_framer.md R146 with R152: IN_MESSAGE with no DLE pending. -/
def Obligations.RxbInMessage : Prop :=
  ∀ (b : Byte) (s : State), s.rxFault = .none → s.mode = .inMessage → s.esc = false →
    exec (.rxb 0x10) s = .next { s with esc := true, result := none }
    ∧ exec .rxEsc s = .next { s with esc := true, result := none }
    ∧ (b ≠ 0x10 → s.cfg.rxBufMax ≠ some s.buf.length →
      exec (.rxb b) s = .next { s with buf := s.buf ++ [b], result := none }
      ∧ exec (.rxData b) s = .next { s with buf := s.buf ++ [b], result := none })
    ∧ (b ≠ 0x10 → s.cfg.rxBufMax = some s.buf.length →
      exec (.rxb b) s = .next { s with rxFault := .rxOverflow, result := none }
      ∧ exec (.rxData b) s = .next { s with rxFault := .rxOverflow, result := none })

/-- 44_stream_framer.md R147, R148 with R152: a doubled DLE, and a start sequence inside a frame. -/
def Obligations.RxbLiteralDleAndRestart : Prop :=
  ∀ s : State, s.rxFault = .none → s.mode = .inMessage → s.esc = true →
    (s.cfg.rxBufMax ≠ some s.buf.length →
      exec (.rxb 0x10) s = .next { s with esc := false, buf := s.buf ++ [0x10], result := none }
      ∧ exec .rxLitDle s = .next { s with esc := false, buf := s.buf ++ [0x10], result := none })
    ∧ (s.cfg.rxBufMax = some s.buf.length →
      exec (.rxb 0x10) s = .next { s with esc := false, rxFault := .rxOverflow, result := none }
      ∧ exec .rxLitDle s = .next { s with esc := false, rxFault := .rxOverflow, result := none })
    ∧ exec (.rxb 0x02) s = .next { s with esc := false, buf := [0x02], result := none }
    ∧ exec .rxStart s = .next { s with esc := false, buf := [0x02], result := none }

/-- 44_stream_framer.md R149: a frame is complete. FRDEC's answer to the same bytes decides the event; on overflow the sticky
fault and no event. -/
def Obligations.RxbEndOfFrame : Prop :=
  ∀ s : State, s.rxFault = .none → s.mode = .inMessage → s.esc = true →
    exec .rxEnd s = exec (.rxb 0x03) s
    ∧ (s.cfg.rxBufMax ≠ some s.buf.length →
      (∀ m, exec (.frdec (s.buf ++ [0x03])) s = .next { s with result := some (.message m) } →
        exec (.rxb 0x03) s = .next { s with
          esc := false, buf := [], mode := .idle, result := none,
          events := s.events ++ [.message m (crcOk (s.buf ++ [0x03]))] })
      ∧ (∀ e, exec (.frdec (s.buf ++ [0x03])) s = .next { s with result := some (.error e) } →
        exec (.rxb 0x03) s = .next { s with
          esc := false, buf := [], mode := .idle, result := none,
          events := s.events ++ [.decodeError e (s.buf ++ [0x03])] })
      ∧ ((∃ m, exec (.frdec (s.buf ++ [0x03])) s = .next { s with result := some (.message m) })
        ∨ ∃ e, exec (.frdec (s.buf ++ [0x03])) s = .next { s with result := some (.error e) }))
    ∧ (s.cfg.rxBufMax = some s.buf.length →
      exec (.rxb 0x03) s = .next { s with esc := false, rxFault := .rxOverflow, result := none })

/-- 44_stream_framer.md R150: an abort inside a frame. -/
def Obligations.RxbAbortInsideAFrame : Prop :=
  ∀ s : State, s.rxFault = .none → s.mode = .inMessage → s.esc = true →
    exec (.rxb 0x08) s
      = .next { s with esc := false, buf := [], mode := .idle, result := none, events := s.events ++ [.incomplete s.buf] }
    ∧ exec .rxAbort s = exec (.rxb 0x08) s

/-- 44_stream_framer.md R151: an undefined follower of DLE inside a frame is the sticky fault EscapeViolation. -/
def Obligations.RxbEscapeViolation : Prop :=
  ∀ (b : Byte) (s : State), s.rxFault = .none → s.mode = .inMessage → s.esc = true → b ∉ [0x02, 0x03, 0x08, 0x10] →
    exec (.rxb b) s = .next { s with esc := false, rxFault := .escapeViolation, result := none }
    ∧ exec (.rxOther b) s = .next { s with esc := false, rxFault := .escapeViolation, result := none }

/-- Every received byte has exactly one successor, and the class row the decoder gives it is RXB on that byte. That RXB answers
in a faulted state too, where 44_stream_framer.md R154 gives it no step, is the model's choice (log 14), as is the refusal
of a class row run on a byte that is not of its class, the receive side running (log 4). -/
def Obligations.ClassRowsAreRxbOfTheirByte : Prop :=
  ∀ (b : Byte) (s : State),
    (∃ t, exec (.rxb b) s = .next t) ∧ exec (decodeRx s.esc b) s = exec (.rxb b) s
    ∧ (s.rxFault = .none → s.esc = false →
      exec .rxStart s = .refused (.notOfClass .start) ∧ exec .rxEnd s = .refused (.notOfClass .finish)
      ∧ exec .rxAbort s = .refused (.notOfClass .abort) ∧ exec .rxLitDle s = .refused (.notOfClass .litDle)
      ∧ exec (.rxOther b) s = .refused (.notOfClass .other))
    ∧ (s.rxFault = .none → s.esc = true →
      exec .rxEsc s = .refused (.notOfClass .escape) ∧ exec (.rxData b) s = .refused (.notOfClass .data))

/-- RXCHUNK is the sequence of its RXB steps, in order, before anything presented later (44_stream_framer.md section 2; that its
bytes wait at the head of the transactions is log 17, that bytes after a sticky fault are turned away log 14). -/
def Obligations.RxchunkIsItsRxbSteps : Prop :=
  ∀ (bytes : List Byte) (s : State),
    exec (.rxchunk bytes) s = .next { s with pending := bytes.map .rx ++ s.pending, result := none }
    ∧ (∀ rest, s.pending = .delivery bytes :: rest →
      steps (1 + bytes.length) s = rxbAll bytes { s with pending := rest, result := none })

/-- 44_stream_framer.md R155: however a run of bytes is cut into deliveries, none at all for the empty run included, the framer
and its events end the same as with one delivery of all of them. The last of the steps finds nothing presented. -/
def Obligations.ChunkingNeverMatters : Prop :=
  ∀ (chunks : List (List Byte)) (s : State),
    steps (chunks.length + chunks.flatten.length + 1) { s with pending := chunks.map .delivery }
      = steps (1 + chunks.flatten.length + 1) { s with pending := [.delivery chunks.flatten] }

/-- The wire units of 30_encoding.md R67, received with no DLE pending: each presents its two bytes, and after their two RXB
steps a frame has begun (WIRE.START, in both modes), or, inside a frame, has ended (or met a full buffer), was aborted, or
holds one literal DLE more (or met a full buffer), or, in IDLE, nothing has changed. That a unit answers by placing two
received bytes before the transactions waiting, and takes three steps, is the model's choice (logs 3, 17). -/
def Obligations.WireUnitsActAsTheirPairs : Prop :=
  ∀ (rest : List Transaction) (s : State), s.rxFault = .none → s.esc = false → s.pending = rest →
    exec .wireStart s = .next { s with pending := .rx 0x10 :: .rx 0x02 :: rest, result := none }
    ∧ exec .wireEnd s = .next { s with pending := .rx 0x10 :: .rx 0x03 :: rest, result := none }
    ∧ exec .wireAbort s = .next { s with pending := .rx 0x10 :: .rx 0x08 :: rest, result := none }
    ∧ exec .wireLitDle s = .next { s with pending := .rx 0x10 :: .rx 0x10 :: rest, result := none }
    ∧ steps 3 { s with pending := .wire 0x10 0x02 :: rest }
      = .next { s with buf := [0x02], mode := .inMessage, result := none }
    ∧ (s.mode = .inMessage → s.cfg.rxBufMax ≠ some s.buf.length →
      steps 3 { s with pending := .wire 0x10 0x03 :: rest } = .next { s with
        buf := [], mode := .idle, result := none, events := s.events ++ [frameEvent s.cfg (s.buf ++ [0x03])] }
      ∧ steps 3 { s with pending := .wire 0x10 0x10 :: rest } = .next { s with buf := s.buf ++ [0x10], result := none })
    ∧ (s.mode = .inMessage → s.cfg.rxBufMax = some s.buf.length →
      steps 3 { s with pending := .wire 0x10 0x03 :: rest } = .next { s with rxFault := .rxOverflow, result := none }
      ∧ steps 3 { s with pending := .wire 0x10 0x10 :: rest } = .next { s with rxFault := .rxOverflow, result := none })
    ∧ (s.mode = .inMessage →
      steps 3 { s with pending := .wire 0x10 0x08 :: rest } = .next { s with
        buf := [], mode := .idle, result := none, events := s.events ++ [.incomplete s.buf] })
    ∧ (s.mode = .idle → steps 3 { s with pending := .wire 0x10 0x03 :: rest } = .next { s with result := none }
      ∧ steps 3 { s with pending := .wire 0x10 0x08 :: rest } = .next { s with result := none }
      ∧ steps 3 { s with pending := .wire 0x10 0x10 :: rest } = .next { s with result := none })

/-- 44_stream_framer.md R157: an abort inside a frame discards the buffered bytes, emits exactly one diagnostic notification, and
leaves the framer ready for a new frame start. -/
def Obligations.AbortThenANewFrameStarts : Prop :=
  ∀ s : State, s.rxFault = .none → s.mode = .inMessage → s.esc = false →
    steps 3 { s with pending := [.wire 0x10 0x08] } = .next { s with
      pending := [], buf := [], mode := .idle, result := none, events := s.events ++ [.incomplete s.buf] }
    ∧ steps 6 { s with pending := [.wire 0x10 0x08, .wire 0x10 0x02] } = .next { s with
      pending := [], buf := [0x02], mode := .inMessage, result := none, events := s.events ++ [.incomplete s.buf] }

/-- The stuffing round trip: whatever lies between the markers, the escaped bytes of a frame that fits the buffer, received by
an idle framer, give exactly one event, about that very frame, and an idle framer. -/
def Obligations.StuffingRoundTrip : Prop :=
  ∀ (inner wire : List Byte) (s : State),
    s.rxFault = .none → s.mode = .idle → s.esc = false → s.buf = [] →
    (∀ m, s.cfg.rxBufMax = some m → inner.length + 2 ≤ m) →
    exec (.esc ([0x02] ++ inner ++ [0x03])) s = .next { s with result := some (.bytes wire) } →
    ∃ e : Event, steps (1 + wire.length) { s with pending := [.delivery wire] }
        = .next { s with pending := [], result := none, events := s.events ++ [e] }
      ∧ (∀ m, exec (.frdec ([0x02] ++ inner ++ [0x03])) s = .next { s with result := some (.message m) } →
        e = .message m (crcOk ([0x02] ++ inner ++ [0x03])))
      ∧ (∀ k, exec (.frdec ([0x02] ++ inner ++ [0x03])) s = .next { s with result := some (.error k) } →
        e = .decodeError k ([0x02] ++ inner ++ [0x03]))

/-- What one SEND puts on the line, delivered to a CORE of the same parameters in any chunks, arrives as the Message sent, all six
attributes, its checksum that of the frame FRENC builds of the same operands, and right: the send path and the receive
path are inverse. -/
def Obligations.SentMessageIsReceived : Prop :=
  ∀ (flag : U16) (token : U32) (command : U16) (fs : List Field) (s t r : State) (chunks : List (List Byte)),
    s.cfg.wf = true → (∀ f ∈ fs, f.wf = true) → frameLength fs ≤ 65535 →
    s.writeAnswer = .accepted → s.tx = [] → exec (.send flag token command fs) s = .next t → chunks.flatten = t.tx →
    r.cfg = s.cfg → r.framer = (.idle, false, [], .none) → (∀ m, r.cfg.rxBufMax = some m → frameLength fs ≤ m) →
    ∃ frame : List Byte, exec (.frenc flag token command fs) s = .next { s with result := some (.bytes frame) }
      ∧ steps (chunks.length + chunks.flatten.length) { r with pending := chunks.map .delivery }
        = .next { r with pending := [], result := none, events := r.events ++ [.message
            { flag := flag, token := token, command := command, length := BitVec.ofNat 16 (frameLength fs), fields := fs,
              checksum := crc16 (slice frame 1 (frame.length - 4)) } true] }

/-! ## The opcode table -/

/-- A word of the opcode table, presented to a machine of the reference parameters with no DLE pending, is the instruction the
next step runs (`State.withFetchWord`; the numbering is the model's, log 5). -/
def Obligations.TableWordIsWhatTheStepRuns : Prop :=
  ∀ (s : State) (nbits w : Nat) (i : Instr), s.cfg = Config.reference → s.esc = false →
    decodeTableWord nbits w = some i → step (s.withFetchWord nbits w) = exec i s

/-- The codes of 60_exceptions.md R170 on the result port, 0 exactly when the operation returned a result, and those of
`rx_fault` (R177). -/
def Obligations.ResultPortCodes : Prop :=
  ∀ (v : Int) (tag b : Byte) (k : Nat) (why : FormatReason) (c d : U16) (r : Reply),
    CodecError.code (.rangeError v) = 1 ∧ CodecError.code (.unknownFieldType tag k) = 2
    ∧ CodecError.code (.frameFormat why k) = 3 ∧ CodecError.code (.checksumMismatch c d) = 4
    ∧ CodecError.code .transportError = 5 ∧ CodecError.code (.digitError k b) = 6
    ∧ (r.code = 0 ↔ ∀ e, r ≠ .error e)
    ∧ RxFault.code .none = 0 ∧ RxFault.code .escapeViolation = 1 ∧ RxFault.code .rxOverflow = 2

/-! ## Frames FRENC did not build -/

/-- FRDEC's field loop on any frame: a header of 12 bytes, fields in wire form (a String may hold codes from 0x80), what stands
behind them, two checksum bytes and the end marker. The fields are read left to right from offset 13; the window ends before
the checksum bytes, which no field borrows; the first defective field decides, whatever follows it, and its offset is
recorded: that of its tag where the tag is unknown, else that of its payload; the digits of a PackedDecimal are looked at
last, from the highest offset down (43_frame.md R121, R127 (4) to (6); 42_field.md R106 to R111). -/
def Obligations.FrdecReadsTheFieldsInOrder : Prop :=
  ∀ (header checksum : List Byte) (fs : List Field) (parts : List (List Byte)) (tag : Byte) (t p w : List Byte) (s : State),
    s.cfg.wf = true → header.length = 12 → checksum.length = 2 → List.Forall₂ (fieldForm s.cfg) fs parts →
    (∃ m : Message, exec (.frdec (frameAround header parts.flatten checksum)) s
        = .next { s with result := some (.message m) } ∧ m.fields = fs)
    ∧ (tag ∉ s.cfg.tags → exec (.frdec (frameAround header (parts.flatten ++ tag :: w) checksum)) s
        = .next { s with result := some (.error (.unknownFieldType tag (13 + parts.flatten.length))) })
    ∧ ((∀ b ∈ t, b ≠ 0x00) → exec (.frdec (frameAround header (parts.flatten ++ s.cfg.tagS :: t) checksum)) s
        = .next { s with result := some (.error (.frameFormat .stringNotTerminated (14 + parts.flatten.length))) })
    ∧ exec (.frdec (frameAround header (parts.flatten ++ [s.cfg.tagB]) checksum)) s
        = .next { s with result := some (.error (.frameFormat .byteTruncated (14 + parts.flatten.length))) }
    ∧ (w.length < 2 → exec (.frdec (frameAround header (parts.flatten ++ s.cfg.tagW :: w) checksum)) s
        = .next { s with result := some (.error (.frameFormat .wordTruncated (14 + parts.flatten.length))) })
    ∧ (w.length < 4 → exec (.frdec (frameAround header (parts.flatten ++ s.cfg.tagL :: w) checksum)) s
        = .next { s with result := some (.error (.frameFormat .longTruncated (14 + parts.flatten.length))) })
    ∧ (w.length < 6 → exec (.frdec (frameAround header (parts.flatten ++ s.cfg.tagP :: w) checksum)) s
        = .next { s with result := some (.error (.frameFormat .packedTruncated (14 + parts.flatten.length))) })
    ∧ (∀ k (h : k < p.length), p.length = 6 → p[k].toNat / 16 > 9 ∨ p[k].toNat % 16 > 9 →
        (∀ j (g : j < p.length), k < j → p[j].toNat / 16 ≤ 9 ∧ p[j].toNat % 16 ≤ 9) →
        exec (.frdec (frameAround header (parts.flatten ++ s.cfg.tagP :: p ++ w) checksum)) s
          = .next { s with result := some (.error (.digitError k p[k])) })
end

