-- ==== Sys2Proof/Laws/State.lean ====
section
/-! SUPPORT. One lemma per field per update of the state, so that no proof unfolds a record update. -/

namespace Sys2Proof.Machine

variable (s : State) (r : Reply) (e : CodecError) (ev : Event) (x : Byte) (w : List Byte)

@[simp] theorem State.answer_cfg : (s.answer r).cfg = s.cfg := rfl
@[simp] theorem State.answer_mode : (s.answer r).mode = s.mode := rfl
@[simp] theorem State.answer_esc : (s.answer r).esc = s.esc := rfl
@[simp] theorem State.answer_buf : (s.answer r).buf = s.buf := rfl
@[simp] theorem State.answer_rxFault : (s.answer r).rxFault = s.rxFault := rfl
@[simp] theorem State.answer_result : (s.answer r).result = some r := rfl
@[simp] theorem State.answer_tx : (s.answer r).tx = s.tx := rfl
@[simp] theorem State.answer_events : (s.answer r).events = s.events := rfl
@[simp] theorem State.answer_pending : (s.answer r).pending = s.pending := rfl
@[simp] theorem State.answer_transport : (s.answer r).transport = s.transport := rfl
@[simp] theorem State.answer_writes : (s.answer r).writes = s.writes := rfl

@[simp] theorem State.noReply_cfg : s.noReply.cfg = s.cfg := rfl
@[simp] theorem State.noReply_mode : s.noReply.mode = s.mode := rfl
@[simp] theorem State.noReply_esc : s.noReply.esc = s.esc := rfl
@[simp] theorem State.noReply_buf : s.noReply.buf = s.buf := rfl
@[simp] theorem State.noReply_rxFault : s.noReply.rxFault = s.rxFault := rfl
@[simp] theorem State.noReply_tx : s.noReply.tx = s.tx := rfl
@[simp] theorem State.noReply_events : s.noReply.events = s.events := rfl
@[simp] theorem State.noReply_pending : s.noReply.pending = s.pending := rfl
@[simp] theorem State.noReply_transport : s.noReply.transport = s.transport := rfl
@[simp] theorem State.noReply_writes : s.noReply.writes = s.writes := rfl
@[simp] theorem State.noReply_result : s.noReply.result = none := rfl
@[simp] theorem State.noReply_framer : s.noReply.framer = s.framer := rfl
@[simp] theorem State.noReply_noReply : s.noReply.noReply = s.noReply := rfl

@[simp] theorem State.raise_cfg : (s.raise e).cfg = s.cfg := rfl
@[simp] theorem State.raise_mode : (s.raise e).mode = s.mode := rfl
@[simp] theorem State.raise_esc : (s.raise e).esc = s.esc := rfl
@[simp] theorem State.raise_buf : (s.raise e).buf = s.buf := rfl
@[simp] theorem State.raise_rxFault : (s.raise e).rxFault = s.rxFault := rfl
@[simp] theorem State.raise_result : (s.raise e).result = some (.error e) := rfl
@[simp] theorem State.raise_tx : (s.raise e).tx = s.tx := rfl
@[simp] theorem State.raise_events : (s.raise e).events = s.events := rfl
@[simp] theorem State.raise_pending : (s.raise e).pending = s.pending := rfl
@[simp] theorem State.raise_transport : (s.raise e).transport = s.transport := rfl
@[simp] theorem State.raise_writes : (s.raise e).writes = s.writes := rfl

@[simp] theorem State.emit_cfg : (s.emit ev).cfg = s.cfg := rfl
@[simp] theorem State.emit_mode : (s.emit ev).mode = s.mode := rfl
@[simp] theorem State.emit_esc : (s.emit ev).esc = s.esc := rfl
@[simp] theorem State.emit_buf : (s.emit ev).buf = s.buf := rfl
@[simp] theorem State.emit_rxFault : (s.emit ev).rxFault = s.rxFault := rfl
@[simp] theorem State.emit_result : (s.emit ev).result = s.result := rfl
@[simp] theorem State.emit_tx : (s.emit ev).tx = s.tx := rfl
@[simp] theorem State.emit_events : (s.emit ev).events = s.events ++ [ev] := rfl
@[simp] theorem State.emit_pending : (s.emit ev).pending = s.pending := rfl
@[simp] theorem State.emit_transport : (s.emit ev).transport = s.transport := rfl
@[simp] theorem State.emit_writes : (s.emit ev).writes = s.writes := rfl

@[simp] theorem State.transmit_cfg : (s.transmit w).cfg = s.cfg := rfl
@[simp] theorem State.transmit_mode : (s.transmit w).mode = s.mode := rfl
@[simp] theorem State.transmit_esc : (s.transmit w).esc = s.esc := rfl
@[simp] theorem State.transmit_buf : (s.transmit w).buf = s.buf := rfl
@[simp] theorem State.transmit_rxFault : (s.transmit w).rxFault = s.rxFault := rfl
@[simp] theorem State.transmit_result : (s.transmit w).result = some (s.writeReply w) := rfl
@[simp] theorem State.transmit_tx : (s.transmit w).tx = s.txAfter w := rfl
@[simp] theorem State.transmit_events : (s.transmit w).events = s.events := rfl
@[simp] theorem State.transmit_pending : (s.transmit w).pending = s.pending := rfl
@[simp] theorem State.transmit_transport : (s.transmit w).transport = s.transport.tail := rfl
@[simp] theorem State.transmit_writes : (s.transmit w).writes = s.writes + 1 := rfl

@[simp] theorem State.present_cfg : (s.present w).cfg = s.cfg := rfl
@[simp] theorem State.present_mode : (s.present w).mode = s.mode := rfl
@[simp] theorem State.present_esc : (s.present w).esc = s.esc := rfl
@[simp] theorem State.present_buf : (s.present w).buf = s.buf := rfl
@[simp] theorem State.present_rxFault : (s.present w).rxFault = s.rxFault := rfl
@[simp] theorem State.present_result : (s.present w).result = none := rfl
@[simp] theorem State.present_tx : (s.present w).tx = s.tx := rfl
@[simp] theorem State.present_events : (s.present w).events = s.events := rfl
@[simp] theorem State.present_pending : (s.present w).pending = w.map .rx ++ s.pending := rfl
@[simp] theorem State.present_transport : (s.present w).transport = s.transport := rfl
@[simp] theorem State.present_writes : (s.present w).writes = s.writes := rfl

@[simp] theorem State.append_cfg : (s.append x).cfg = s.cfg := by unfold State.append; split <;> rfl
@[simp] theorem State.append_mode : (s.append x).mode = s.mode := by unfold State.append; split <;> rfl
@[simp] theorem State.append_esc : (s.append x).esc = s.esc := by unfold State.append; split <;> rfl
@[simp] theorem State.append_result : (s.append x).result = s.result := by unfold State.append; split <;> rfl
@[simp] theorem State.append_tx : (s.append x).tx = s.tx := by unfold State.append; split <;> rfl
@[simp] theorem State.append_events : (s.append x).events = s.events := by unfold State.append; split <;> rfl
@[simp] theorem State.append_pending : (s.append x).pending = s.pending := by unfold State.append; split <;> rfl
@[simp] theorem State.append_transport : (s.append x).transport = s.transport := by unfold State.append; split <;> rfl
@[simp] theorem State.append_writes : (s.append x).writes = s.writes := by unfold State.append; split <;> rfl

/-- `Append` (44_stream_framer.md R152): a full buffer keeps its bytes. -/
theorem State.append_buf : (s.append x).buf = if s.bufFull then s.buf else s.buf ++ [x] := by
  unfold State.append; split <;> rfl

/-- `Append` sets `rx_fault` exactly when the buffer is full. -/
theorem State.append_rxFault : (s.append x).rxFault = if s.bufFull then .rxOverflow else s.rxFault := by
  unfold State.append; split <;> rfl

/-- A full buffer, in the words of R152. -/
theorem State.bufFull_iff : s.bufFull = true ↔ s.cfg.rxBufMax = some s.buf.length := by simp [State.bufFull]

/-- The framer elements of an answered state are those of the state. -/
@[simp] theorem State.answer_framer : (s.answer r).framer = s.framer := rfl
@[simp] theorem State.raise_framer : (s.raise e).framer = s.framer := rfl
@[simp] theorem State.emit_framer : (s.emit ev).framer = s.framer := rfl
@[simp] theorem State.transmit_framer : (s.transmit w).framer = s.framer := rfl
@[simp] theorem State.present_framer : (s.present w).framer = s.framer := rfl

/-- The model's own runner is the host's (Host/Core.lean). -/
theorem steps_zero : steps 0 s = .next s := rfl

theorem steps_succ (n : Nat) :
    steps (n + 1) s = match step s with
      | .next t => steps n t
      | .fault f => .fault f
      | .refused f => .refused f := rfl

end Sys2Proof.Machine
end

