-- ==== Sys2Proof/Laws/Bytes.lean ====
section
/-! SUPPORT. Byte sequences: little-endian values (20_memory.md R32), slices and reads. -/

namespace Sys2Proof.Machine

@[simp] theorem leBytes_length (n v : Nat) : (leBytes n v).length = n := by
  induction n generalizing v with
  | zero => rfl
  | succ n ih => simp [leBytes, ih]

/-- Reading back `LE_n(v)` gives the low `8n` bits of `v`. -/
theorem leValue_leBytes (n v : Nat) : leValue (leBytes n v) = v % 256 ^ n := by
  induction n generalizing v with
  | zero => simp [leBytes, leValue, Nat.mod_one]
  | succ n ih =>
    simp only [leBytes, leValue, ih, BitVec.toNat_ofNat, Nat.reducePow]
    rw [pow_succ', Nat.mod_mul]

theorem leValue_lt (s : List Byte) : leValue s < 256 ^ s.length := by
  induction s with
  | nil => simp [leValue]
  | cons b s ih =>
    have := b.isLt
    simp only [leValue, List.length_cons, pow_succ]
    omega

@[simp] theorem slice_length (s : List Byte) (a n : Nat) : (slice s a n).length = min n (s.length - a) := by
  simp [slice]

/-- A slice that lies behind `s` in `s ++ t`. -/
theorem slice_append_right (s t : List Byte) (a n : Nat) (h : a = s.length) :
    slice (s ++ t) a n = t.take n := by
  subst h; simp [slice]

/-- A read of `n` bytes lies below `256^n` (45_cross_family.md R161). -/
theorem memRead_lt (s : List Byte) (a n : Nat) : memRead s a n < 256 ^ n :=
  lt_of_lt_of_le (leValue_lt _) (Nat.pow_le_pow_right (by decide) (by simp))

/-- A read depends on its bytes alone. -/
theorem memRead_congr {s t : List Byte} {a n : Nat} (h : ∀ k, a ≤ k → k < a + n → s[k]? = t[k]?) :
    memRead s a n = memRead t a n := by
  unfold memRead slice
  congr 1
  apply List.ext_getElem?
  intro k
  simp only [List.getElem?_take, List.getElem?_drop]
  split
  · exact h _ (by omega) (by omega)
  · rfl

/-- The text check of the meanings is that of well-formedness. -/
theorem asciiText_eq_textWf (t : List Byte) : asciiText t = textWf t := rfl

/-- The Field check of the meanings is that of well-formedness. -/
theorem takesField_eq_admitted (f : Field) : takesField f = f.admitted := by cases f <;> rfl

theorem textWf_iff (t : List Byte) : textWf t = true ↔ ∀ b ∈ t, 0x01 ≤ b.toNat ∧ b.toNat ≤ 0x7F := by
  simp [textWf]

theorem inPdDomain_iff (v : Int) : inPdDomain v = true ↔ -500000000000 ≤ v ∧ v ≤ 499999999999 := by
  simp [inPdDomain]

/-- A Field well-formed for encoding is admitted. -/
theorem Field.admitted_of_wf {f : Field} (h : f.wf = true) : f.admitted = true := by
  cases f <;> simp_all [Field.wf, Field.admitted]

end Sys2Proof.Machine
end

