-- ==== Sys2Proof/Laws/Checksum.lean ====
section
/-! SUPPORT. The ChecksumEngine: `crc16` as a fold, and `crcShift` as a linear map. -/

namespace Sys2Proof.Machine

@[simp] theorem crc16_nil : crc16 [] = 0x0000 := rfl

theorem crc16_append (s t : List Byte) : crc16 (s ++ t) = t.foldl crcStep (crc16 s) := by
  simp [crc16]

/-- "`CrcStep(0, 0) = CRC_TABLE[0] = 0`" (40_checksum.md R82). -/
theorem crcStep_zero : crcStep 0 0 = 0 := by decide

/-- One step on a zero register is a table look-up. -/
theorem crcStep_zero_left (b : Byte) : crcStep 0 b = crcTable b := by
  simp [crcStep]

/-- The conditional shift is linear over exclusive-or. -/
theorem crcShift_xor (a b : U16) : crcShift (a ^^^ b) = crcShift a ^^^ crcShift b := by
  unfold crcShift
  simp only [BitVec.getLsbD_xor, BitVec.shiftLeft_xor_distrib]
  have cancel : (a <<< 1) ^^^ (b <<< 1) = ((a <<< 1) ^^^ 0x1021#16) ^^^ ((b <<< 1) ^^^ 0x1021#16) := by
    rw [BitVec.xor_assoc, ← BitVec.xor_assoc 0x1021#16, BitVec.xor_comm 0x1021#16, BitVec.xor_assoc (b <<< 1)]
    simp
  cases a.getLsbD 15 <;> cases b.getLsbD 15
  · rfl
  · exact BitVec.xor_assoc ..
  · simp only [Bool.true_bne, Bool.not_false, if_true, Bool.false_eq_true, if_false]
    rw [BitVec.xor_assoc, BitVec.xor_assoc, BitVec.xor_comm (b <<< 1)]
  · exact cancel

/-- Where the top bit is clear the conditional shift is a plain one. -/
theorem crcShift_of_top_clear {r : U16} (h : r.getLsbD 15 = false) : crcShift r = r <<< 1 := by
  unfold crcShift; rw [h]; rfl

end Sys2Proof.Machine
end

