-- ==== Sys2Proof/Laws/PackedDecimal.lean ====
section
/-! SUPPORT. The PackedDecimalCodec: nibbles and digits, the two ways PDENC and PDDEC end. -/

namespace Sys2Proof.Machine

theorem hiNibble_eq (b : Byte) : hiNibble b = b.toNat / 16 := by
  have := b.isLt
  simp only [hiNibble, BitVec.extractLsb'_toNat, Nat.shiftRight_eq_div_pow]
  omega

theorem loNibble_eq (b : Byte) : loNibble b = b.toNat % 16 := by
  simp [loNibble, BitVec.extractLsb'_toNat]

/-- The nibbles of payload byte `k` are the digits `d(2k+1)` and `d(2k)` of the magnitude. -/
theorem pdByte_toNat (u k : Nat) :
    (pdByte u k).toNat = 16 * (u / (10 * 100 ^ k) % 10) + u / 100 ^ k % 10 := by
  have h1 : u / (10 * 100 ^ k) % 10 < 10 := Nat.mod_lt _ (by decide)
  have h2 : u / 100 ^ k % 10 < 10 := Nat.mod_lt _ (by decide)
  simp only [pdByte, BitVec.toNat_ofNat]
  omega

theorem pdEnc_of_domain {v : Int} (h : -500000000000 ≤ v ∧ v ≤ 499999999999) :
    pdEnc v = .ok ((List.range 6).map (pdByte (pdMagnitude v))) := by
  have : ¬(v < -500000000000 ∨ v > 499999999999) := by omega
  simp [pdEnc, this, List.range_succ]

theorem pdEnc_out_of_domain {v : Int} (h : ¬(-500000000000 ≤ v ∧ v ≤ 499999999999)) :
    pdEnc v = .error (.rangeError v) := by
  have : v < -500000000000 ∨ v > 499999999999 := by omega
  simp [pdEnc, this]

/-- A byte of two decimal digits. -/
abbrev Decimal (b : Byte) : Prop := b.toNat / 16 ≤ 9 ∧ b.toNat % 16 ≤ 9

/-- The number two decimal digits write. -/
def twoDigits (b : Byte) : Nat := b.toNat / 16 * 10 + b.toNat % 16

/-- The magnitude of a payload, as a little-endian base-100 number (20_memory.md R34). -/
def base100 : List Byte → Nat
  | [] => 0
  | b :: p => twoDigits b + 100 * base100 p

theorem pdValue_of_decimal {k : Nat} {p : List Byte} (h : ∀ b ∈ p, Decimal b) :
    pdValue k p = .ok (base100 p) := by
  induction p generalizing k with
  | nil => rfl
  | cons b p ih =>
    have hb := h b (by simp)
    have : ¬(hiNibble b > 9 ∨ loNibble b > 9) := by rw [hiNibble_eq, loNibble_eq]; omega
    rw [pdValue, ih (fun c hc => h c (by simp [hc]))]
    simp only [if_neg this, base100, twoDigits]
    rw [hiNibble_eq, loNibble_eq]
    congr 1; omega

/-- The bad digit reported is the one at the highest offset (41_packed_decimal.md R91). -/
theorem pdValue_of_bad {k j : Nat} {p : List Byte} (hj : j < p.length) (hbad : ¬Decimal p[j])
    (hafter : ∀ i (hi : i < p.length), j < i → Decimal p[i]) :
    pdValue k p = .error (.digitError (k + j) p[j]) := by
  induction p generalizing k j with
  | nil => simp at hj
  | cons b p ih =>
    cases j with
    | zero =>
      have hp : ∀ c ∈ p, Decimal c := by
        intro c hc
        obtain ⟨i, hi, rfl⟩ := List.mem_iff_getElem.1 hc
        exact hafter (i + 1) (by simpa using hi) (by omega)
      have : hiNibble b > 9 ∨ loNibble b > 9 := by
        rw [hiNibble_eq, loNibble_eq]; simp [Decimal] at hbad; omega
      rw [pdValue, pdValue_of_decimal hp]
      simp [this]
    | succ j =>
      have := ih (k := k + 1) (j := j) (by simpa using hj) (by simpa using hbad)
        (fun i hi hji => hafter (i + 1) (by simpa using hi) (by omega))
      rw [pdValue, this]
      simp; omega

/-- PDDEC's only error is DigitError. -/
theorem pdValue_error {k : Nat} {p : List Byte} {e : CodecError} (h : pdValue k p = .error e) :
    ∃ j b, e = .digitError j b := by
  induction p generalizing k with
  | nil => simp [pdValue] at h
  | cons b p ih =>
    rw [pdValue] at h
    split at h
    · next e' he => cases h; exact ih he
    · split at h
      · cases h; exact ⟨_, _, rfl⟩
      · cases h

end Sys2Proof.Machine
end

