-- ==== Sys2Proof/Laws/FieldCodec.lean ====
section
/-! SUPPORT. The FieldCodec: lengths, the scan for the NUL, and that a decoded field leaves fewer bytes. -/

namespace Sys2Proof.Machine

/-- The encoded length is `FLen` (42_field.md R100, 10_state.md R24). -/
theorem fieldEnc_length {c : Config} {f : Field} {b : List Byte} (h : fieldEnc c f = .ok b) :
    b.length = f.encodedLength := by
  cases f with
  | string t => cases h; simp [fencString, Field.encodedLength]; omega
  | byte v => cases h; rfl
  | word v => cases h; simp [fencWord, Field.encodedLength]
  | long v => cases h; simp [fencLong, Field.encodedLength]
  | packed v =>
    by_cases hv : -500000000000 ≤ v ∧ v ≤ 499999999999
    · simp only [fieldEnc, fencPacked, pdEnc_of_domain hv] at h
      cases h; rfl
    · simp [fieldEnc, fencPacked, pdEnc_out_of_domain hv] at h

/-- A well-formed Field has an encoding. -/
theorem fieldEnc_of_wf (c : Config) {f : Field} (h : f.wf = true) : ∃ b, fieldEnc c f = .ok b := by
  cases f with
  | packed v =>
    refine ⟨c.tagP :: (List.range 6).map (pdByte (pdMagnitude v)), ?_⟩
    simp only [fieldEnc, fencPacked, pdEnc_of_domain ((inPdDomain_iff v).1 h)]
  | _ => exact ⟨_, rfl⟩

theorem splitAtNul_append {t rest : List Byte} (h : ∀ b ∈ t, b ≠ 0x00) :
    splitAtNul (t ++ 0x00 :: rest) = some (t, rest) := by
  induction t with
  | nil => rfl
  | cons b t ih =>
    have hb := h b (by simp)
    rw [List.cons_append, splitAtNul, if_neg hb, ih fun c hc => h c (by simp [hc])]

theorem splitAtNul_none {t : List Byte} (h : ∀ b ∈ t, b ≠ 0x00) : splitAtNul t = none := by
  induction t with
  | nil => rfl
  | cons b t ih =>
    have hb := h b (by simp)
    rw [splitAtNul, if_neg hb, ih fun c hc => h c (by simp [hc])]

/-- What the scan finds: the text, the NUL, and the rest. -/
theorem splitAtNul_some {w t rest : List Byte} (h : splitAtNul w = some (t, rest)) :
    w = t ++ 0x00 :: rest := by
  induction w generalizing t rest with
  | nil => simp [splitAtNul] at h
  | cons b w ih =>
    rw [splitAtNul] at h
    split at h
    · next hb => cases h; simp [hb]
    · split at h
      · cases h
      · next t' r' he => cases h; simp [ih he]

/-- A decoded field takes at least one payload byte, so the window behind it is shorter (45_cross_family.md R163: "every
`FDec` returns `p' ≥ p + 2`"). -/
theorem fieldDec_shorter {c : Config} {p : Nat} {tag : Byte} {w rest : List Byte} {f : Field}
    (h : fieldDec c p tag w = .ok (f, rest)) : rest.length < w.length := by
  unfold fieldDec at h
  repeat' split at h
  · unfold fdecString at h
    split at h
    · cases h
    · next he => cases h; rw [splitAtNul_some he]; simp; omega
  · unfold fdecByte at h
    split at h
    · cases h
    · cases h; simp
  · unfold fdecWord at h
    split at h
    · cases h
    · cases h; simp; omega
  · unfold fdecLong at h
    split at h
    · cases h
    · cases h; simp; omega
  · unfold fdecPacked at h
    split at h
    · cases h
    · split at h
      · cases h
      · cases h; simp; omega
  · cases h

end Sys2Proof.Machine
end

