-- ==== Sys2Proof/Laws/FrameCodec.lean ====
section
/-! SUPPORT. The FrameCodec: lengths, the ways a frame's encoding ends, and that the field loop's bound is no bound. -/

namespace Sys2Proof.Machine

theorem fieldsEnc_length {c : Config} {fs : List Field} {b : List Byte} (h : fieldsEnc c fs = .ok b) :
    16 + b.length = frameLength fs := by
  induction fs generalizing b with
  | nil => cases h; rfl
  | cons f fs ih =>
    rw [fieldsEnc] at h
    split at h
    · cases h
    · next hb =>
      split at h
      · cases h
      · next hr =>
        cases h
        have h1 := fieldEnc_length hb
        have h2 := ih hr
        simp only [frameLength, List.map_cons, List.sum_cons, List.length_append] at h2 ⊢
        omega

theorem fieldsEnc_of_wf (c : Config) {fs : List Field} (h : ∀ f ∈ fs, f.wf = true) :
    ∃ b, fieldsEnc c fs = .ok b := by
  induction fs with
  | nil => exact ⟨_, rfl⟩
  | cons f fs ih =>
    obtain ⟨b, hb⟩ := fieldEnc_of_wf c (h f (by simp))
    obtain ⟨r, hr⟩ := ih fun g hg => h g (by simp [hg])
    exact ⟨b ++ r, by simp only [fieldsEnc, hb, hr]⟩

@[simp] theorem frameCovered_length (flag : U16) (token : U32) (command : U16) (n : Nat) (body : List Byte) :
    (frameCovered flag token command n body).length = 12 + body.length := by
  simp [frameCovered]; omega

/-- A built frame has `N = L = 16 + Σ FLen` bytes (30_encoding.md R53). -/
@[simp] theorem frameBytes_length (flag : U16) (token : U32) (command : U16) (n : Nat) (body : List Byte) :
    (frameBytes flag token command n body).length = 16 + body.length := by
  simp [frameBytes]; omega

/-- Well-formed Fields within the length limit build a frame. -/
theorem frameEnc_of_wf (c : Config) (flag : U16) (token : U32) (command : U16) {fs : List Field}
    (h : ∀ f ∈ fs, f.wf = true) (hl : frameLength fs ≤ 65535) :
    ∃ body, fieldsEnc c fs = .ok body
      ∧ frameEnc c flag token command fs = .built (frameBytes flag token command fs.length body) := by
  obtain ⟨body, hb⟩ := fieldsEnc_of_wf c h
  have hall : fs.all takesField = true := by
    rw [List.all_eq_true]; intro f hf
    rw [takesField_eq_admitted]; exact Field.admitted_of_wf (h f hf)
  have := fieldsEnc_length hb
  exact ⟨body, hb, by simp [frameEnc, hall, hb, lengthFits]; omega⟩

/-- The three ways a frame's encoding ends, and when (43_frame.md R120). -/
theorem frameEnc_cases (c : Config) (flag : U16) (token : U32) (command : U16) (fs : List Field) :
    frameEnc c flag token command fs = .refused .textNotAscii
    ∨ (∃ e, fieldsEnc c fs = .error e ∧ frameEnc c flag token command fs = .raised e)
    ∨ frameEnc c flag token command fs = .refused .frameTooLong
    ∨ ∃ body, fieldsEnc c fs = .ok body ∧ 16 + body.length ≤ 65535
        ∧ frameEnc c flag token command fs = .built (frameBytes flag token command fs.length body) := by
  by_cases hall : fs.all takesField = true
  · simp only [frameEnc, if_pos hall]
    split
    · next e he => exact .inr (.inl ⟨e, he, rfl⟩)
    · next body hb =>
      split
      · next hl => exact .inr (.inr (.inr ⟨body, hb, of_decide_eq_true hl, rfl⟩))
      · exact .inr (.inr (.inl rfl))
  · exact .inl (by simp only [frameEnc, if_neg hall])

/-- Any two bounds that reach the window's length give the same field list: the bound is never what ends the loop. -/
theorem fieldsDec_fuel {c : Config} {n m pos : Nat} {w : List Byte} (hn : w.length ≤ n) (hm : w.length ≤ m) :
    fieldsDec c n pos w = fieldsDec c m pos w := by
  induction n generalizing m pos w with
  | zero =>
    cases w with
    | nil => simp [fieldsDec]
    | cons => simp at hn
  | succ n ih =>
    cases w with
    | nil => simp [fieldsDec]
    | cons tag w =>
      cases m with
      | zero => simp at hm
      | succ m =>
        simp only [fieldsDec]
        split
        · rfl
        · next hd =>
          have := fieldDec_shorter hd
          simp only [List.length_cons] at hn hm
          rw [ih (m := m) (by omega) (by omega)]

/-- Each decoded field takes at least two bytes (45_cross_family.md R163). -/
theorem fieldsDec_count {c : Config} {n pos : Nat} {w : List Byte} {fs : List Field}
    (h : fieldsDec c n pos w = .ok fs) : 2 * fs.length ≤ w.length := by
  induction n generalizing pos w fs with
  | zero => cases w <;> simp [fieldsDec] at h; simp [← h]
  | succ n ih =>
    cases w with
    | nil => simp [fieldsDec] at h; simp [← h]
    | cons tag w =>
      simp only [fieldsDec] at h
      split at h
      · cases h
      · next hd =>
        split at h
        · cases h
        · next hr =>
          cases h
          have := fieldDec_shorter hd
          have := ih hr
          simp only [List.length_cons]
          omega

end Sys2Proof.Machine
end

