-- ==== Sys2Proof/Laws/Framer.lean ====
section
/-! SUPPORT. The StreamFramer: what one received byte can change, and the class rows as RXB. -/

namespace Sys2Proof.Machine

/-- Everything a received byte can do outside the framer: one event at most, and nothing to any other field
(44_stream_framer.md R143). -/
structure Received (s t : State) : Prop where
  cfg : t.cfg = s.cfg
  result : t.result = s.result
  tx : t.tx = s.tx
  pending : t.pending = s.pending
  transport : t.transport = s.transport
  writes : t.writes = s.writes
  events : t.events = s.events ∨ ∃ e, t.events = s.events ++ [e]

theorem Received.refl (s : State) : Received s s := ⟨rfl, rfl, rfl, rfl, rfl, rfl, .inl rfl⟩

/-- Each class's rule changes the framer and emits at most one event. -/
theorem ruleOf_received (c : RxClass) (b : Byte) (s : State) : Received s (ruleOf c b s) := by
  cases c
  case escape => exact ⟨rfl, rfl, rfl, rfl, rfl, rfl, .inl rfl⟩
  case data =>
    simp only [ruleOf, ruleData]; split
    · exact .refl s
    · constructor <;> simp
  case start => simp only [ruleOf, ruleStart]; split <;> exact ⟨rfl, rfl, rfl, rfl, rfl, rfl, .inl rfl⟩
  case finish =>
    simp only [ruleOf, ruleEnd]; split
    · exact ⟨rfl, rfl, rfl, rfl, rfl, rfl, .inl rfl⟩
    · split
      · exact ⟨rfl, rfl, rfl, rfl, rfl, rfl, .inl rfl⟩
      · exact ⟨rfl, rfl, rfl, rfl, rfl, rfl, .inr ⟨_, rfl⟩⟩
  case abort =>
    simp only [ruleOf, ruleAbort]; split
    · exact ⟨rfl, rfl, rfl, rfl, rfl, rfl, .inl rfl⟩
    · exact ⟨rfl, rfl, rfl, rfl, rfl, rfl, .inr ⟨_, rfl⟩⟩
  case litDle =>
    simp only [ruleOf, ruleLitDle]; split
    · exact ⟨rfl, rfl, rfl, rfl, rfl, rfl, .inl rfl⟩
    · constructor <;> simp
  case other => simp only [ruleOf, ruleOther]; split <;> exact ⟨rfl, rfl, rfl, rfl, rfl, rfl, .inl rfl⟩

/-- A received byte changes the framer, emits at most one event, and leaves the result port empty. -/
theorem receive_received (b : Byte) (s : State) : Received s.noReply (receive b s) := by
  unfold receive; split
  · exact ruleOf_received _ _ _
  · exact .refl _

/-- What stands on the result port makes no difference to a received byte. -/
@[simp] theorem receive_noReply (b : Byte) (s : State) : receive b s.noReply = receive b s := rfl

/-- With the receive side running, a byte follows the rule of its class (44_stream_framer.md R143). -/
theorem receive_running {s : State} (h : s.rxFault = .none) (b : Byte) :
    receive b s = ruleOf (classify s.esc b) b s.noReply := by simp [receive, h]

/-- A faulted receive side stands still (44_stream_framer.md R154). -/
theorem receive_faulted {s : State} (h : s.rxFault ≠ .none) (b : Byte) : receive b s = s.noReply := by simp [receive, h]

/-- A class row that answers is RXB on its byte. -/
theorem receiveAs_next {c : RxClass} {b : Byte} {s t : State} (h : receiveAs c b s = .next t) : t = receive b s := by
  unfold receiveAs at h; split at h
  · cases h
  · cases h; rfl

/-- A class row whose byte is of its class answers. -/
theorem receiveAs_of_class {c : RxClass} {b : Byte} {s : State} (h : classify s.esc b = c) :
    receiveAs c b s = .next (receive b s) := by simp [receiveAs, h]

/-- A class row whose byte is not of its class is refused while the receive side runs. -/
theorem receiveAs_refused {c : RxClass} {b : Byte} {s : State} (hf : s.rxFault = .none) (h : classify s.esc b ≠ c) :
    receiveAs c b s = .refused (.notOfClass c) := by simp [receiveAs, hf, h]

@[simp] theorem classify_false_dle : classify false dle = .escape := by decide
@[simp] theorem classify_true_stx : classify true stx = .start := by decide
@[simp] theorem classify_true_etx : classify true etx = .finish := by decide
@[simp] theorem classify_true_abt : classify true abt = .abort := by decide
@[simp] theorem classify_true_dle : classify true dle = .litDle := by decide

theorem classify_data {b : Byte} (h : b ≠ 0x10) : classify false b = .data := by
  exact if_neg h

theorem classify_other {b : Byte} (h : b ∉ [(0x02 : Byte), 0x03, 0x08, 0x10]) : classify true b = .other := by
  simp only [List.mem_cons, List.not_mem_nil, or_false, not_or] at h
  obtain ⟨h2, h3, h8, h10⟩ := h
  rw [classify, if_pos rfl, if_neg (show b ≠ stx from h2), if_neg (show b ≠ etx from h3),
    if_neg (show b ≠ abt from h8), if_neg (show b ≠ dle from h10)]

end Sys2Proof.Machine
end

