-- ==== Sys2Proof/Laws/Exec.lean ====
section
/-! SUPPORT. Said once: everything a next state of an instruction can be. -/

namespace Sys2Proof.Machine

/-- An operation that returns a result or raises an error changes the result port alone. -/
theorem State.finish_eq (s : State) (r : Except CodecError Reply) :
    ∃ p, s.finish r = .next { s with result := some p } := by
  cases r <;> exact ⟨_, rfl⟩

/-- The reply an operation's result is on the result port. -/
def replyOfResult : Except CodecError Reply → Reply
  | .ok r => r
  | .error e => .error e

theorem State.finish_eq_reply (s : State) (r : Except CodecError Reply) :
    s.finish r = .next { s with result := some (replyOfResult r) } := by
  cases r <;> rfl

/-- The operations that present bytes to the RX byte port: RXCHUNK and the wire units (44_stream_framer.md R153). -/
def deliveryOperation : Instr → Bool
  | .rxchunk _ | .wireStart | .wireEnd | .wireAbort | .wireLitDle => true
  | _ => false

/-- Everything an instruction can do when it answers a next state: RESET, an answer on the result port, a write, a received
byte, or bytes presented to the RX byte port. -/
inductive Effect (s : State) : Instr → State → Prop
  | reset : Effect s .reset { s with mode := .idle, esc := false, buf := [], rxFault := .none, result := none }
  | answer {i : Instr} (h : pureOperation i = true) (p : Reply) : Effect s i { s with result := some p }
  | raised (f : U16) (k : U32) (c : U16) (fs : List Field) (e : CodecError) :
      Effect s (.send f k c fs) { s with result := some (.error e) }
  | sent (f : U16) (k : U32) (c : U16) (fs : List Field) (w : List Byte) : Effect s (.send f k c fs) (s.transmit w)
  | received {i : Instr} (h : receiveOperation i = true) (b : Byte) : Effect s i (receive b s)
  | presented {i : Instr} (h : deliveryOperation i = true) (bytes : List Byte) : Effect s i (s.present bytes)

/-- The inversion lemma of `exec`. -/
theorem exec_effect {i : Instr} {s t : State} (h : exec i s = .next t) : Effect s i t := by
  cases i
  case reset => cases h; exact .reset
  case crc16 => cases h; exact .answer rfl _
  case pdenc v =>
    obtain ⟨p, hp⟩ := s.finish_eq ((pdEnc v).map .bytes)
    cases hp.symm.trans h; exact .answer rfl p
  case pddec p =>
    simp only [exec, execPddec] at h
    split at h
    · obtain ⟨r, hr⟩ := s.finish_eq ((pdDec p).map .int)
      cases hr.symm.trans h; exact .answer rfl r
    · cases h
  case fencS =>
    simp only [exec, execFencS] at h
    split at h
    · cases h; exact .answer rfl _
    · cases h
  case fencB => cases h; exact .answer rfl _
  case fencW => cases h; exact .answer rfl _
  case fencL => cases h; exact .answer rfl _
  case fencP v =>
    obtain ⟨p, hp⟩ := s.finish_eq ((fencPacked s.cfg v).map .bytes)
    cases hp.symm.trans h; exact .answer rfl p
  case fdec b =>
    cases b with
    | nil => cases h
    | cons tag w =>
      obtain ⟨p, hp⟩ := s.finish_eq (fieldReply (1 + w.length) (fieldDec s.cfg 0 tag w))
      cases hp.symm.trans h; exact .answer rfl p
  case frenc f k c fs =>
    simp only [exec, execFrenc] at h
    split at h
    · cases h
    · cases h; exact .answer rfl _
    · cases h; exact .answer rfl _
  case frdec b =>
    obtain ⟨p, hp⟩ := s.finish_eq ((frameDec s.cfg b).map .message)
    cases hp.symm.trans h; exact .answer rfl p
  case frvfy b =>
    simp only [exec, execFrvfy] at h
    split at h
    · split at h <;> cases h <;> exact .answer rfl _
    · cases h
  case esc => cases h; exact .answer rfl _
  case send f k c fs =>
    simp only [exec, execSend] at h
    split at h
    · cases h
    · cases h; exact .raised ..
    · cases h; exact .sent ..
  case rxb b => cases h; exact .received rfl b
  case rxchunk b => cases h; exact .presented rfl b
  case rxEsc => cases receiveAs_next h; exact .received rfl _
  case rxData b => cases receiveAs_next h; exact .received rfl _
  case rxStart => cases receiveAs_next h; exact .received rfl _
  case rxEnd => cases receiveAs_next h; exact .received rfl _
  case rxAbort => cases receiveAs_next h; exact .received rfl _
  case rxLitDle => cases receiveAs_next h; exact .received rfl _
  case rxOther b => cases receiveAs_next h; exact .received rfl _
  case wireStart => cases h; exact .presented rfl _
  case wireEnd => cases h; exact .presented rfl _
  case wireAbort => cases h; exact .presented rfl _
  case wireLitDle => cases h; exact .presented rfl _
  case tagS w =>
    obtain ⟨p, hp⟩ := s.finish_eq (fieldReply (1 + w.length) (fdecString 1 w))
    cases hp.symm.trans h; exact .answer rfl p
  case tagB w =>
    obtain ⟨p, hp⟩ := s.finish_eq (fieldReply (1 + w.length) (fdecByte 1 w))
    cases hp.symm.trans h; exact .answer rfl p
  case tagW w =>
    obtain ⟨p, hp⟩ := s.finish_eq (fieldReply (1 + w.length) (fdecWord 1 w))
    cases hp.symm.trans h; exact .answer rfl p
  case tagL w =>
    obtain ⟨p, hp⟩ := s.finish_eq (fieldReply (1 + w.length) (fdecLong 1 w))
    cases hp.symm.trans h; exact .answer rfl p
  case tagP w =>
    obtain ⟨p, hp⟩ := s.finish_eq (fieldReply (1 + w.length) (fdecPacked 1 w))
    cases hp.symm.trans h; exact .answer rfl p

/-- The inversion lemma of `step`: nothing was presented, or the oldest transaction was taken and its instruction had an
effect. -/
theorem step_effect {s t : State} (h : step s = .next t) :
    (s.pending = [] ∧ t = s.noReply)
    ∨ ∃ x rest i, s.pending = x :: rest ∧ decode s.cfg s.esc x = .ok i ∧ Effect { s with pending := rest } i t := by
  unfold step at h
  split at h
  · next hp => cases h; exact .inl ⟨hp, rfl⟩
  · next x rest hp =>
    split at h
    · next i hi => exact .inr ⟨x, rest, i, hp, hi, exec_effect h⟩
    · cases h

/-- The byte of a class that stands for one byte (30_encoding.md R70). -/
def classByte : RxClass → Option Byte
  | .escape => some dle
  | .data => none
  | .start => some stx
  | .finish => some etx
  | .abort => some abt
  | .litDle => some dle
  | .other => none

theorem classify_byte {e : Bool} {b x : Byte} {c : RxClass} (h : classify e b = c) (hx : classByte c = some x) : b = x := by
  unfold classify at h
  repeat' split at h
  all_goals subst h; simp_all [classByte]

/-- The class row the decoder gives a byte is RXB on that byte. -/
theorem exec_decodeRx (b : Byte) (s : State) : exec (decodeRx s.esc b) s = .next (receive b s) := by
  have hr : receiveAs (classify s.esc b) b s = .next (receive b s) := receiveAs_of_class rfl
  unfold decodeRx
  cases hc : classify s.esc b <;> rw [hc] at hr
  case data => exact hr
  case other => exact hr
  all_goals rw [classify_byte hc rfl] at hr ⊢; exact hr

/-- A received byte at the head of the ports: the step is RXB, with the byte taken. -/
theorem step_rx {s : State} {b : Byte} {rest : List Transaction} (h : s.pending = .rx b :: rest) :
    step s = .next (receive b { s with pending := rest }) := by
  simp only [step, h, decode]
  exact exec_decodeRx b { s with pending := rest }

end Sys2Proof.Machine
end

