-- ==== Sys2Proof/Laws/PerInstr.lean ====
section
/-! SUPPORT. Statements about every instruction, one lemma per constructor. -/

namespace Sys2Proof.Laws.TableWord

/-- The word the encoder gives an instruction (under the reference tags) has the width of its row of
spec/opcode_table.json and the row's fixed bits. -/
def Statement (i : Instr) : Prop :=
  (encode Config.reference i).tableWord.1 = i.tableRow.1
  ∧ (encode Config.reference i).tableWord.2 &&& i.tableRow.2.2 = i.tableRow.2.1

theorem reset : Statement .reset := ⟨rfl, rfl⟩
theorem crc16 (s : List Byte) : Statement (.crc16 s) := ⟨rfl, by simp [encode, Transaction.tableWord, Instr.tableRow, hostWord, wordOf]⟩
theorem pdenc (v : Int) : Statement (.pdenc v) := ⟨rfl, by simp [encode, Transaction.tableWord, Instr.tableRow, hostWord, wordOf]⟩
theorem pddec (p : List Byte) : Statement (.pddec p) := ⟨rfl, by simp [encode, Transaction.tableWord, Instr.tableRow, hostWord, wordOf]⟩
theorem fencS (t : List Byte) : Statement (.fencS t) := ⟨rfl, by simp [encode, Transaction.tableWord, Instr.tableRow, hostWord, wordOf]⟩
theorem fencB (v : Byte) : Statement (.fencB v) := ⟨rfl, by simp [encode, Transaction.tableWord, Instr.tableRow, hostWord, wordOf]⟩
theorem fencW (v : U16) : Statement (.fencW v) := ⟨rfl, by simp [encode, Transaction.tableWord, Instr.tableRow, hostWord, wordOf]⟩
theorem fencL (v : U32) : Statement (.fencL v) := ⟨rfl, by simp [encode, Transaction.tableWord, Instr.tableRow, hostWord, wordOf]⟩
theorem fencP (v : Int) : Statement (.fencP v) := ⟨rfl, by simp [encode, Transaction.tableWord, Instr.tableRow, hostWord, wordOf]⟩
theorem fdec (b : List Byte) : Statement (.fdec b) := ⟨rfl, by simp [encode, Transaction.tableWord, Instr.tableRow, hostWord, wordOf]⟩
theorem frenc (f : U16) (k : U32) (c : U16) (fs : List Field) : Statement (.frenc f k c fs) := ⟨rfl, by simp [encode, Transaction.tableWord, Instr.tableRow, hostWord, wordOf]⟩
theorem frdec (s : List Byte) : Statement (.frdec s) := ⟨rfl, by simp [encode, Transaction.tableWord, Instr.tableRow, hostWord, wordOf]⟩
theorem frvfy (s : List Byte) : Statement (.frvfy s) := ⟨rfl, by simp [encode, Transaction.tableWord, Instr.tableRow, hostWord, wordOf]⟩
theorem esc (s : List Byte) : Statement (.esc s) := ⟨rfl, by simp [encode, Transaction.tableWord, Instr.tableRow, hostWord, wordOf]⟩
theorem send (f : U16) (k : U32) (c : U16) (fs : List Field) : Statement (.send f k c fs) := ⟨rfl, by simp [encode, Transaction.tableWord, Instr.tableRow, hostWord, wordOf]⟩
theorem rxb (b : Byte) : Statement (.rxb b) := ⟨rfl, by simp [encode, Transaction.tableWord, Instr.tableRow]⟩
theorem rxchunk (s : List Byte) : Statement (.rxchunk s) := ⟨rfl, by simp [encode, Transaction.tableWord, Instr.tableRow]⟩
theorem rxEsc : Statement .rxEsc := ⟨rfl, rfl⟩
theorem rxData (b : Byte) : Statement (.rxData b) := ⟨rfl, by simp [encode, Transaction.tableWord, Instr.tableRow]⟩
theorem rxStart : Statement .rxStart := ⟨rfl, rfl⟩
theorem rxEnd : Statement .rxEnd := ⟨rfl, rfl⟩
theorem rxAbort : Statement .rxAbort := ⟨rfl, rfl⟩
theorem rxLitDle : Statement .rxLitDle := ⟨rfl, rfl⟩
theorem rxOther (b : Byte) : Statement (.rxOther b) := ⟨rfl, by simp [encode, Transaction.tableWord, Instr.tableRow]⟩
theorem wireStart : Statement .wireStart := ⟨rfl, rfl⟩
theorem wireEnd : Statement .wireEnd := ⟨rfl, rfl⟩
theorem wireAbort : Statement .wireAbort := ⟨rfl, rfl⟩
theorem wireLitDle : Statement .wireLitDle := ⟨rfl, rfl⟩
theorem tagS (p : List Byte) : Statement (.tagS p) := ⟨rfl, by simp [encode, Transaction.tableWord, Instr.tableRow, Config.reference]⟩
theorem tagB (p : List Byte) : Statement (.tagB p) := ⟨rfl, by simp [encode, Transaction.tableWord, Instr.tableRow, Config.reference]⟩
theorem tagW (p : List Byte) : Statement (.tagW p) := ⟨rfl, by simp [encode, Transaction.tableWord, Instr.tableRow, Config.reference]⟩
theorem tagL (p : List Byte) : Statement (.tagL p) := ⟨rfl, by simp [encode, Transaction.tableWord, Instr.tableRow, Config.reference]⟩
theorem tagP (p : List Byte) : Statement (.tagP p) := ⟨rfl, by simp [encode, Transaction.tableWord, Instr.tableRow, Config.reference]⟩

end Sys2Proof.Laws.TableWord
end

