-- ==== Sys2Proof/Laws/Steps.lean ====
section
/-! SUPPORT. Runs of several steps: received bytes waiting on the ports are taken one after the other. -/

namespace Sys2Proof.Machine

/-- `n` steps that answer, then `m` more. -/
theorem steps_add (n m : Nat) (s t : State) (h : steps n s = .next t) : steps (n + m) s = steps m t := by
  induction n generalizing s with
  | zero => cases h; simp
  | succ n ih =>
    rw [Nat.succ_add, steps]
    rw [steps] at h
    split at h
    · exact ih _ h
    · cases h
    · cases h

/-- A byte's rule does not look at the transactions waiting. -/
theorem ruleOf_pending (c : RxClass) (b : Byte) (s : State) (p : List Transaction) :
    ruleOf c b { s with pending := p } = { ruleOf c b s with pending := p } := by
  obtain ⟨cfg, mode, esc, buf, f, r, tx, e, p', tr, w⟩ := s
  cases mode <;> cases c <;> try rfl
  all_goals
    by_cases hb : cfg.rxBufMax = some buf.length <;>
      simp [ruleOf, ruleData, ruleEnd, ruleLitDle, State.append, State.bufFull, State.emit, hb]

theorem receive_pending (b : Byte) (s : State) (p : List Transaction) :
    receive b { s with pending := p } = { receive b s with pending := p } := by
  unfold receive
  by_cases hf : s.rxFault = .none
  · rw [if_pos hf, if_pos hf]; exact ruleOf_pending _ _ s.noReply _
  · rw [if_neg hf, if_neg hf]; rfl

/-- The state after the bytes of a delivery, one RXB each (44_stream_framer.md R153). -/
def receiveAll (bytes : List Byte) (s : State) : State := bytes.foldl (fun s b => receive b s) s

@[simp] theorem receiveAll_nil (s : State) : receiveAll [] s = s := rfl

@[simp] theorem receiveAll_cons (b : Byte) (bytes : List Byte) (s : State) :
    receiveAll (b :: bytes) s = receiveAll bytes (receive b s) := rfl

theorem receiveAll_append (a b : List Byte) (s : State) : receiveAll (a ++ b) s = receiveAll b (receiveAll a s) := by
  simp [receiveAll]

theorem receiveAll_pending (bytes : List Byte) (s : State) (p : List Transaction) :
    receiveAll bytes { s with pending := p } = { receiveAll bytes s with pending := p } := by
  induction bytes generalizing s with
  | nil => rfl
  | cons b bytes ih => rw [receiveAll_cons, receive_pending, ih, receiveAll_cons]

/-- Bytes waiting on the RX byte port are taken one step each. -/
theorem steps_rx (bytes : List Byte) (rest : List Transaction) (s : State) (h : s.pending = bytes.map .rx ++ rest) :
    steps bytes.length s = .next { receiveAll bytes s with pending := rest } := by
  induction bytes generalizing s with
  | nil => simp at h; simp [steps, ← h]
  | cons b bytes ih =>
    have hs := step_rx (s := s) (b := b) (rest := bytes.map .rx ++ rest) (by simpa using h)
    rw [List.length_cons, steps, hs]
    show steps bytes.length (receive b _) = _
    rw [ih (receive b { s with pending := bytes.map .rx ++ rest }) (receive_received _ _).pending, receive_pending,
      receiveAll_pending]
    rfl

/-- A delivery takes one step to present its bytes and one for each. -/
theorem steps_delivery (bytes : List Byte) (rest : List Transaction) (s : State) :
    steps (1 + bytes.length) { s with pending := .delivery bytes :: rest }
      = .next { receiveAll bytes s.noReply with pending := rest } := by
  have h1 : steps 1 { s with pending := .delivery bytes :: rest }
      = .next { s.noReply with pending := bytes.map .rx ++ rest } := rfl
  rw [steps_add _ _ _ _ h1, steps_rx bytes rest _ rfl, receiveAll_pending]

end Sys2Proof.Machine
end

