-- ==== Sys2Proof/Tests/Slice0.lean ====
section
/-! SUPPORT. The model's own tests: the vectors of 95_test_vectors.md (each test names its vector), words written out from
the encoding tables of 30_encoding.md, and the checks of WellFormed on ill-formed terms. -/

namespace Sys2Proof.Tests

open Sys2Proof.Machine

/-! ## Helpers -/

/-- The next state of an outcome. -/
def after : Outcome → Option State
  | .next t => some t
  | .fault _ => none
  | .refused _ => none

/-- The reason an outcome was refused for. -/
def refusalOf : Outcome → Option Refusal
  | .next _ => none
  | .fault _ => none
  | .refused r => some r

/-- What an instruction leaves on the result port, run from reset. -/
def replyOf (i : Instr) : Option Reply := (after (exec i State.reset)).bind State.result

/-- A framer state, the other fields as at reset. -/
def framerState (mode : Mode) (esc : Bool) (buf : List Byte) : State :=
  { State.reset with mode := mode, esc := esc, buf := buf }

/-- The framer after one instruction, and the events it emitted. -/
def framerAfter (i : Instr) (s : State) : Option ((Mode × Bool × List Byte × RxFault) × List Event) :=
  (after (exec i s)).map fun t => (t.framer, t.events)

/-- The state after a run of received bytes. -/
def received (s : State) (bytes : List Byte) : State := bytes.foldl (fun s b => receive b s) s

/-- Reset with another buffer capacity. -/
def withCapacity (m : Nat) : State :=
  { State.reset with cfg := { Config.reference with rxBufMax := some m } }

/-! ## Frames of 95_test_vectors.md section 5 -/

def frameF1 : List Byte :=
  [0x02, 0x00, 0x00, 0x00, 0x00, 0x00, 0x00, 0x10, 0x00, 0x00, 0x00, 0x01, 0x00, 0xB5, 0x29, 0x03]

def frameF2 : List Byte :=
  [0x02, 0x00, 0x00, 0x44, 0x33, 0x22, 0x11, 0x19, 0x00, 0x03, 0x00, 0x02, 0x01, 0x42, 0x10, 0x57, 0x02, 0x03, 0x53, 0x4F, 0x4B, 0x00, 0xB7, 0xE3, 0x03]

def frameF3 : List Byte :=
  [0x02, 0x00, 0x00, 0x02, 0x10, 0x00, 0x00, 0x25, 0x00, 0x04, 0x00, 0x10, 0x00, 0x4C, 0x10, 0x02, 0x10, 0x03, 0x50, 0x01, 0x80, 0x99, 0x99, 0x99, 0x99, 0x53, 0x00, 0x50, 0x99, 0x99, 0x99, 0x99, 0x99, 0x49, 0x91, 0x76, 0x03]

def wireF1 : List Byte :=
  [0x10, 0x02, 0x00, 0x00, 0x00, 0x00, 0x00, 0x00, 0x10, 0x10, 0x00, 0x00, 0x00, 0x01, 0x00, 0xB5, 0x29, 0x10, 0x03]

def wireF3 : List Byte :=
  [0x10, 0x02, 0x00, 0x00, 0x02, 0x10, 0x10, 0x00, 0x00, 0x25, 0x00, 0x04, 0x00, 0x10, 0x10, 0x00, 0x4C, 0x10, 0x10, 0x02, 0x10, 0x10, 0x03, 0x50, 0x01, 0x80, 0x99, 0x99, 0x99, 0x99, 0x53, 0x00, 0x50, 0x99, 0x99, 0x99, 0x99, 0x99, 0x49, 0x91, 0x76, 0x10, 0x03]

def messageF2 : Message where
  flag := 0
  token := 0x11223344
  command := 0x0102
  length := 25
  fields := [.byte 0x10, .word 0x0302, .string [0x4F, 0x4B]]
  checksum := 0xE3B7

/-! ## The checksum table, as 40_checksum.md R80 prints it -/

def tableRows0 : List U16 :=
  [0x0000, 0x1021, 0x2042, 0x3063, 0x4084, 0x50A5, 0x60C6, 0x70E7]
  ++ [0x8108, 0x9129, 0xA14A, 0xB16B, 0xC18C, 0xD1AD, 0xE1CE, 0xF1EF]
  ++ [0x1231, 0x0210, 0x3273, 0x2252, 0x52B5, 0x4294, 0x72F7, 0x62D6]
  ++ [0x9339, 0x8318, 0xB37B, 0xA35A, 0xD3BD, 0xC39C, 0xF3FF, 0xE3DE]
  ++ [0x2462, 0x3443, 0x0420, 0x1401, 0x64E6, 0x74C7, 0x44A4, 0x5485]
  ++ [0xA56A, 0xB54B, 0x8528, 0x9509, 0xE5EE, 0xF5CF, 0xC5AC, 0xD58D]
  ++ [0x3653, 0x2672, 0x1611, 0x0630, 0x76D7, 0x66F6, 0x5695, 0x46B4]
  ++ [0xB75B, 0xA77A, 0x9719, 0x8738, 0xF7DF, 0xE7FE, 0xD79D, 0xC7BC]

def tableRows1 : List U16 :=
  [0x48C4, 0x58E5, 0x6886, 0x78A7, 0x0840, 0x1861, 0x2802, 0x3823]
  ++ [0xC9CC, 0xD9ED, 0xE98E, 0xF9AF, 0x8948, 0x9969, 0xA90A, 0xB92B]
  ++ [0x5AF5, 0x4AD4, 0x7AB7, 0x6A96, 0x1A71, 0x0A50, 0x3A33, 0x2A12]
  ++ [0xDBFD, 0xCBDC, 0xFBBF, 0xEB9E, 0x9B79, 0x8B58, 0xBB3B, 0xAB1A]
  ++ [0x6CA6, 0x7C87, 0x4CE4, 0x5CC5, 0x2C22, 0x3C03, 0x0C60, 0x1C41]
  ++ [0xEDAE, 0xFD8F, 0xCDEC, 0xDDCD, 0xAD2A, 0xBD0B, 0x8D68, 0x9D49]
  ++ [0x7E97, 0x6EB6, 0x5ED5, 0x4EF4, 0x3E13, 0x2E32, 0x1E51, 0x0E70]
  ++ [0xFF9F, 0xEFBE, 0xDFDD, 0xCFFC, 0xBF1B, 0xAF3A, 0x9F59, 0x8F78]

def tableRows2 : List U16 :=
  [0x9188, 0x81A9, 0xB1CA, 0xA1EB, 0xD10C, 0xC12D, 0xF14E, 0xE16F]
  ++ [0x1080, 0x00A1, 0x30C2, 0x20E3, 0x5004, 0x4025, 0x7046, 0x6067]
  ++ [0x83B9, 0x9398, 0xA3FB, 0xB3DA, 0xC33D, 0xD31C, 0xE37F, 0xF35E]
  ++ [0x02B1, 0x1290, 0x22F3, 0x32D2, 0x4235, 0x5214, 0x6277, 0x7256]
  ++ [0xB5EA, 0xA5CB, 0x95A8, 0x8589, 0xF56E, 0xE54F, 0xD52C, 0xC50D]
  ++ [0x34E2, 0x24C3, 0x14A0, 0x0481, 0x7466, 0x6447, 0x5424, 0x4405]
  ++ [0xA7DB, 0xB7FA, 0x8799, 0x97B8, 0xE75F, 0xF77E, 0xC71D, 0xD73C]
  ++ [0x26D3, 0x36F2, 0x0691, 0x16B0, 0x6657, 0x7676, 0x4615, 0x5634]

def tableRows3 : List U16 :=
  [0xD94C, 0xC96D, 0xF90E, 0xE92F, 0x99C8, 0x89E9, 0xB98A, 0xA9AB]
  ++ [0x5844, 0x4865, 0x7806, 0x6827, 0x18C0, 0x08E1, 0x3882, 0x28A3]
  ++ [0xCB7D, 0xDB5C, 0xEB3F, 0xFB1E, 0x8BF9, 0x9BD8, 0xABBB, 0xBB9A]
  ++ [0x4A75, 0x5A54, 0x6A37, 0x7A16, 0x0AF1, 0x1AD0, 0x2AB3, 0x3A92]
  ++ [0xFD2E, 0xED0F, 0xDD6C, 0xCD4D, 0xBDAA, 0xAD8B, 0x9DE8, 0x8DC9]
  ++ [0x7C26, 0x6C07, 0x5C64, 0x4C45, 0x3CA2, 0x2C83, 0x1CE0, 0x0CC1]
  ++ [0xEF1F, 0xFF3E, 0xCF5D, 0xDF7C, 0xAF9B, 0xBFBA, 0x8FD9, 0x9FF8]
  ++ [0x6E17, 0x7E36, 0x4E55, 0x5E74, 0x2E93, 0x3EB2, 0x0ED1, 0x1EF0]

theorem test_crc_table_rows0 :
    (List.range 64).map (fun i => crcTable (BitVec.ofNat 8 (0 + i))) = tableRows0 := by decide

theorem test_crc_table_rows1 :
    (List.range 64).map (fun i => crcTable (BitVec.ofNat 8 (64 + i))) = tableRows1 := by decide

theorem test_crc_table_rows2 :
    (List.range 64).map (fun i => crcTable (BitVec.ofNat 8 (128 + i))) = tableRows2 := by decide

theorem test_crc_table_rows3 :
    (List.range 64).map (fun i => crcTable (BitVec.ofNat 8 (192 + i))) = tableRows3 := by decide

/-! ## ChecksumEngine -/

/-- V-CRC-6. -/
theorem test_crc16_check_value : replyOf (.crc16 [0x31, 0x32, 0x33, 0x34, 0x35, 0x36, 0x37, 0x38, 0x39]) = some (.u16 0x31C3) := by decide

/-- V-CRC-11. -/
theorem test_crc16_trailing_zero : replyOf (.crc16 [0x01, 0x00]) = some (.u16 0x3331) := by decide

/-! ## PackedDecimalCodec -/

/-- V-PD-7. -/
theorem test_pdenc_negative : replyOf (.pdenc (-123456789012)) = some (.bytes [0x88, 0x09, 0x21, 0x43, 0x65, 0x87]) := by decide

/-- V-PD-26. -/
theorem test_pdenc_range : replyOf (.pdenc 500000000000) = some (.error (.rangeError 500000000000)) := by decide

/-- V-PD-34. -/
theorem test_pddec_threshold : replyOf (.pddec [0x00, 0x00, 0x00, 0x00, 0x00, 0x50]) = some (.int (-500000000000)) := by decide

/-- V-PD-31. -/
theorem test_pddec_highest_bad_digit : replyOf (.pddec [0x0A, 0x00, 0x00, 0xB0, 0x00, 0x00]) = some (.error (.digitError 3 0xB0)) := by decide

/-- 41_packed_decimal.md R91. -/
theorem test_pddec_length : refusalOf (exec (.pddec [0x12]) State.reset) = some .notSixBytes := by decide

/-! ## FieldCodec -/

/-- V-FLD-2. -/
theorem test_fencS : replyOf (.fencS [0x41, 0x42]) = some (.bytes [0x53, 0x41, 0x42, 0x00]) := by decide

/-- 42_field.md R101. -/
theorem test_fencS_refuses_nul : refusalOf (exec (.fencS [0x41, 0x00]) State.reset) = some .textNotAscii := by decide

/-- V-FLD-5. -/
theorem test_fencB : replyOf (.fencB 0x10) = some (.bytes [0x42, 0x10]) := by decide

/-- V-FLD-7. -/
theorem test_fencW : replyOf (.fencW 0x1234) = some (.bytes [0x57, 0x34, 0x12]) := by decide

/-- V-FLD-9. -/
theorem test_fencL : replyOf (.fencL 0x12345678) = some (.bytes [0x4C, 0x78, 0x56, 0x34, 0x12]) := by decide

/-- V-FLD-12. -/
theorem test_fencP : replyOf (.fencP 1999) = some (.bytes [0x50, 0x99, 0x19, 0x00, 0x00, 0x00, 0x00]) := by decide

/-- V-FLD-24. -/
theorem test_fencP_range : replyOf (.fencP 500000000000) = some (.error (.rangeError 500000000000)) := by decide

/-- V-FLD-13. -/
theorem test_fdec_ignores_rest : replyOf (.fdec [0x53, 0x41, 0x00, 0x42, 0x07]) = some (.field (.string [0x41]) 3) := by decide

/-- V-FLD-16. -/
theorem test_fdec_unknown_tag : replyOf (.fdec [0x5A]) = some (.error (.unknownFieldType 0x5A 0)) := by decide

/-- V-FLD-14. -/
theorem test_tagS_high_codes : replyOf (.tagS [0x80, 0xFF, 0x00]) = some (.field (.string [0x80, 0xFF]) 4) := by decide

/-- V-FLD-21. -/
theorem test_tagS_unterminated : replyOf (.tagS [0x41, 0x42]) = some (.error (.frameFormat .stringNotTerminated 1)) := by decide

/-- V-FLD-6. -/
theorem test_tagB : replyOf (.tagB [0xFF]) = some (.field (.byte 255) 2) := by decide

/-- V-FLD-17. -/
theorem test_tagB_truncated : replyOf (.tagB []) = some (.error (.frameFormat .byteTruncated 1)) := by decide

/-- V-FLD-7. -/
theorem test_tagW : replyOf (.tagW [0x34, 0x12]) = some (.field (.word 0x1234) 3) := by decide

/-- V-FLD-18. -/
theorem test_tagW_truncated : replyOf (.tagW [0x34]) = some (.error (.frameFormat .wordTruncated 1)) := by decide

/-- V-FLD-25. -/
theorem test_tagL : replyOf (.tagL [0x78, 0x56, 0x34, 0x12, 0x99]) = some (.field (.long 0x12345678) 5) := by decide

/-- V-FLD-19. -/
theorem test_tagL_truncated : replyOf (.tagL [0x01, 0x02, 0x03]) = some (.error (.frameFormat .longTruncated 1)) := by decide

/-- V-FLD-26. -/
theorem test_tagP : replyOf (.tagP [0x12, 0x90, 0x78, 0x56, 0x34, 0x12, 0x99]) = some (.field (.packed 123456789012) 7) := by decide

/-- V-FLD-23. -/
theorem test_tagP_width_before_digits : replyOf (.tagP [0x0A, 0x00, 0x00, 0x00, 0x00]) = some (.error (.frameFormat .packedTruncated 1)) := by decide

/-! ## FrameCodec -/

/-- V-FRM-2. -/
theorem test_frenc_three_fields : replyOf (.frenc 0 0x11223344 0x0102 [.byte 0x10, .word 0x0302, .string [0x4F, 0x4B]])
      = some (.bytes frameF2) := by decide +kernel

/-- V-FRM-25. -/
theorem test_frenc_first_range_error : replyOf (.frenc 0 0 1 [.byte 1, .packed 500000000000, .packed (-500000000001)])
      = some (.error (.rangeError 500000000000)) := by decide

/-- V-FRM-2. -/
theorem test_frdec_three_fields : replyOf (.frdec frameF2) = some (.message messageF2) := by decide

/-- V-FRM-16. -/
theorem test_frdec_digit_error : replyOf (.frdec [0x02, 0x00, 0x00, 0x00, 0x00, 0x00, 0x00, 0x17, 0x00, 0x01, 0x00, 0x01, 0x00, 0x50, 0x0A, 0x00, 0x00, 0x00, 0x00, 0x00, 0x43, 0x83, 0x03])
      = some (.error (.digitError 0 0x0A)) := by decide

/-- V-FRM-3. -/
theorem test_frvfy_ok : replyOf (.frvfy frameF3) = some .ok := by decide +kernel

/-- V-FRM-23. -/
theorem test_frvfy_mismatch : replyOf (.frvfy [0x02, 0x00, 0x00, 0x00, 0x00, 0x00, 0x00, 0x10, 0x00, 0x00, 0x00, 0x02, 0x00, 0xB5, 0x29, 0x03])
      = some (.error (.checksumMismatch 0x7CE6 0x29B5)) := by decide

/-! ## StreamFramer, send side -/

/-- V-ESC-6. -/
theorem test_esc_inner_markers : replyOf (.esc [0x02, 0x10, 0x02, 0x03, 0x08, 0x03]) = some (.bytes [0x10, 0x02, 0x10, 0x10, 0x02, 0x03, 0x08, 0x10, 0x03]) := by decide

/-- V-ESC-7. -/
theorem test_esc_ends : replyOf (.esc [0x03, 0x02]) = some (.bytes [0x03, 0x02]) := by decide

/-- P1, line 4. -/
theorem test_send_accepted : (after (exec (.send 0 0 1 []) { State.reset with transport := [.accepted] })).map
      (fun t => (t.tx, t.result)) = some (wireF1, some (.bytes wireF1)) := by decide +kernel

/-- 44_stream_framer.md R141, 93_implementation_defined.md U14. -/
theorem test_send_failed : (after (exec (.send 0 0 1 []) { State.reset with transport := [.failed 2] })).map
      (fun t => (t.tx, t.result)) = some ([0x10, 0x02], some (.error .transportError)) := by decide

/-! ## StreamFramer, receive side -/

/-- 44_stream_framer.md R149, its example. -/
theorem test_rxb_end_of_frame : (received (framerState .inMessage true [0x02, 0xCC]) [0x03]).events
      = [.decodeError (.frameFormat .tooShort 3) [0x02, 0xCC, 0x03]] := by decide

/-- Program P2. -/
theorem test_rxb_escaped_frame : (received State.reset wireF3).events.map (fun e => match e with | .message m ok => (m.checksum, ok) | _ => (0, false))
      = [(0x7691, true)] := by decide +kernel

/-- 44_stream_framer.md R153. -/
theorem test_rxchunk_presents : (after (exec (.rxchunk [0x10, 0x02]) State.reset)).map State.pending = some [.rx 0x10, .rx 0x02] := by decide

/-- 44_stream_framer.md R144, its example. -/
theorem test_rxEsc : framerAfter .rxEsc State.reset = some ((.idle, true, [], .none), []) := by decide

/-- 44_stream_framer.md R146, its example. -/
theorem test_rxData_in_message : framerAfter (.rxData 0x03) (framerState .inMessage false [0x02])
      = some ((.inMessage, false, [0x02, 0x03], .none), []) := by decide

/-- 44_stream_framer.md R145, its example. -/
theorem test_rxStart : framerAfter .rxStart (framerState .idle true []) = some ((.inMessage, false, [0x02], .none), []) := by decide

/-- 44_stream_framer.md R148, its example. -/
theorem test_rxStart_restart : framerAfter .rxStart (framerState .inMessage true [0x02, 0xAA, 0xBB])
      = some ((.inMessage, false, [0x02], .none), []) := by decide

/-- 44_stream_framer.md R145, its example. -/
theorem test_rxEnd_in_idle : framerAfter .rxEnd (framerState .idle true []) = some ((.idle, false, [], .none), []) := by decide

/-- 44_stream_framer.md R150, its example. -/
theorem test_rxAbort : framerAfter .rxAbort (framerState .inMessage true [0x02, 0x00, 0x00, 0x10, 0x02])
      = some ((.idle, false, [], .none), [.incomplete [0x02, 0x00, 0x00, 0x10, 0x02]]) := by decide

/-- 44_stream_framer.md R147, its example. -/
theorem test_rxLitDle : framerAfter .rxLitDle (framerState .inMessage true [0x02, 0x00])
      = some ((.inMessage, false, [0x02, 0x00, 0x10], .none), []) := by decide

/-- 44_stream_framer.md R151, its example. -/
theorem test_rxOther : framerAfter (.rxOther 0x41) (framerState .inMessage true [0x02, 0x01])
      = some ((.inMessage, false, [0x02, 0x01], .escapeViolation), []) := by decide

/-- V-RX-10 with a capacity of 17. -/
theorem test_overflow_on_end_marker : (received (withCapacity 17) [0x10, 0x02, 0x00, 0x00, 0x00, 0x00, 0x00, 0x00, 0x12, 0x00, 0x01, 0x00, 0x01, 0x00, 0x42, 0x07, 0x4F, 0x9A, 0x10, 0x03]).framer
      = (.inMessage, false, [0x02, 0x00, 0x00, 0x00, 0x00, 0x00, 0x00, 0x12, 0x00, 0x01, 0x00, 0x01, 0x00, 0x42, 0x07, 0x4F, 0x9A], .rxOverflow) := by decide

/-- V-RX-8. -/
theorem test_faulted_then_reset : (received State.reset [0x10, 0x02, 0x01, 0x10, 0x41, 0x10, 0x03]).framer
      = (.inMessage, false, [0x02, 0x01], .escapeViolation) := by decide

/-- 30_encoding.md R67. -/
theorem test_wireStart : (steps 3 { State.reset with pending := [.wire 0x10 0x02] } |> after).map State.framer
      = some (.inMessage, false, [0x02], .none) := by decide

/-- V-RX-7. -/
theorem test_wireEnd : (steps 3 { framerState .inMessage false [0x02] with pending := [.wire 0x10 0x03] } |> after).map State.events
      = some [.decodeError (.frameFormat .tooShort 2) [0x02, 0x03]] := by decide

/-- 44_stream_framer.md R157. -/
theorem test_wireAbort : (steps 3 { framerState .inMessage false [0x02] with pending := [.wire 0x10 0x08] } |> after).map State.events
      = some [.incomplete [0x02]] := by decide

/-- 30_encoding.md R67. -/
theorem test_wireLitDle : (steps 3 { framerState .inMessage false [0x02] with pending := [.wire 0x10 0x10] } |> after).map State.framer
      = some (.inMessage, false, [0x02, 0x10], .none) := by decide

/-- 70_reset_and_hazards.md R200, its example. -/
theorem test_reset : (after (exec .reset { framerState .inMessage true [0x02, 0x00] with rxFault := .escapeViolation })).map State.framer
      = some (.idle, false, [], .none) := by decide

/-! ## Decoding: words written out from 30_encoding.md R67, R70, R71 and R60 -/

/-- What a transaction decodes to under the reference tags. -/
def decoded (esc : Bool) (t : Transaction) : Option Instr := (decode Config.reference esc t).toOption

/-- 10_state.md R25: the ports "hold nothing between operations". -/
theorem test_result_port_is_empty_after_rxb : (after (exec (.rxb 0x41) { State.reset with result := some .ok })).map State.result
    = some none := by decide

theorem test_result_port_is_empty_after_rxchunk : (after (exec (.rxchunk []) { State.reset with result := some .ok })).map State.result
    = some none := by decide

/-- 43_frame.md R121: "The two checksum bytes are never parsed as fields"; 42_field.md R107: codes from 0x80 are carried. -/
theorem test_frdec_checksum_is_no_field : replyOf (.frdec (frameAround (List.replicate 12 0) [0x53, 0x80] [0x00, 0x00]))
    = some (.error (.frameFormat .stringNotTerminated 14)) := by decide

theorem test_decode_reset : decoded false (.command 0b00000000 (.nothing)) = some (.reset) := by decide

theorem test_decode_crc16 : decoded false (.command 0b00000001 (.bytes [0x41])) = some (.crc16 [0x41]) := by decide

theorem test_decode_pdenc : decoded false (.command 0b00000010 (.int (-1))) = some (.pdenc (-1)) := by decide

theorem test_decode_pddec : decoded false (.command 0b00000011 (.bytes [1, 2, 3, 4, 5, 6])) = some (.pddec [1, 2, 3, 4, 5, 6]) := by decide

theorem test_decode_fencS : decoded false (.command 0b00000100 (.bytes [0x41])) = some (.fencS [0x41]) := by decide

theorem test_decode_fencB : decoded false (.command 0b00010100 (.u8 7)) = some (.fencB 7) := by decide

theorem test_decode_fencW : decoded false (.command 0b00100100 (.u16 7)) = some (.fencW 7) := by decide

theorem test_decode_fencL : decoded false (.command 0b00110100 (.u32 7)) = some (.fencL 7) := by decide

theorem test_decode_fencP : decoded false (.command 0b01000100 (.int 7)) = some (.fencP 7) := by decide

theorem test_decode_fdec : decoded false (.command 0b00000101 (.bytes [0x42, 7])) = some (.fdec [0x42, 7]) := by decide

theorem test_decode_frenc : decoded false (.command 0b00000110 (.header 1 2 3 [.byte 4])) = some (.frenc 1 2 3 [.byte 4]) := by decide

theorem test_decode_frdec : decoded false (.command 0b00000111 (.bytes [2, 3])) = some (.frdec [2, 3]) := by decide

theorem test_decode_frvfy : decoded false (.command 0b00001000 (.bytes [2, 3])) = some (.frvfy [2, 3]) := by decide

theorem test_decode_esc : decoded false (.command 0b00001001 (.bytes [2, 3])) = some (.esc [2, 3]) := by decide

theorem test_decode_send : decoded false (.command 0b00001010 (.header 1 2 3 [.byte 4])) = some (.send 1 2 3 [.byte 4]) := by decide

theorem test_decode_rxEsc : decoded false (.rx 0b00010000) = some (.rxEsc) := by decide

theorem test_decode_rxData : decoded false (.rx 0b01000001) = some (.rxData 0x41) := by decide

theorem test_decode_rxStart : decoded true (.rx 0b00000010) = some (.rxStart) := by decide

theorem test_decode_rxEnd : decoded true (.rx 0b00000011) = some (.rxEnd) := by decide

theorem test_decode_rxAbort : decoded true (.rx 0b00001000) = some (.rxAbort) := by decide

theorem test_decode_rxLitDle : decoded true (.rx 0b00010000) = some (.rxLitDle) := by decide

theorem test_decode_rxOther : decoded true (.rx 0b01000001) = some (.rxOther 0x41) := by decide

theorem test_decode_wireStart : decoded false (.wire 0b00010000 0b00000010) = some .wireStart := by decide

theorem test_decode_wireEnd : decoded false (.wire 0b00010000 0b00000011) = some .wireEnd := by decide

theorem test_decode_wireAbort : decoded false (.wire 0b00010000 0b00001000) = some .wireAbort := by decide

theorem test_decode_wireLitDle : decoded false (.wire 0b00010000 0b00010000) = some .wireLitDle := by decide

theorem test_decode_tagS : decoded false (.field 0b01010011 [0]) = some (.tagS [0]) := by decide

theorem test_decode_tagB : decoded false (.field 0b01000010 [0]) = some (.tagB [0]) := by decide

theorem test_decode_tagW : decoded false (.field 0b01010111 [0]) = some (.tagW [0]) := by decide

theorem test_decode_tagL : decoded false (.field 0b01001100 [0]) = some (.tagL [0]) := by decide

theorem test_decode_tagP : decoded false (.field 0b01010000 [0]) = some (.tagP [0]) := by decide

/-- RXB's byte decodes to the row of its class (R143). -/
theorem test_decode_rxb_in_pair : decode Config.reference true (encode Config.reference (.rxb 0x02)) = .ok .rxStart := by rfl

theorem test_decode_rxchunk : decoded false (.delivery [0x10, 0x02]) = some (.rxchunk [0x10, 0x02]) := by decide

/-- 30_encoding.md R76: one word of each unassigned kind. -/
theorem test_decode_refuses : [0x0B, 0x0F, 0x10, 0x24 + 0x30, 0x74, 0x80, 0x81].map hostOpOf = List.replicate 7 none := by decide

/-- 30_encoding.md R71 and R76: the assigned words are these fifteen. -/
theorem test_words_assigned : ((List.range 256).filter fun w => (hostOpOf (BitVec.ofNat 8 w)).isSome)
      = [0x00, 0x01, 0x02, 0x03, 0x04, 0x05, 0x06, 0x07, 0x08, 0x09, 0x0A, 0x14, 0x24, 0x34, 0x44] := by decide

/-! ## The well-formedness checks refuse ill-formed terms -/

theorem test_ill_formed_pddec_length : Instr.wf (.pddec [1]) = false := by decide

theorem test_ill_formed_text_nul : Instr.wf (.fencS [0x41, 0x00]) = false := by decide

theorem test_ill_formed_text_high : Instr.wf (.fencS [0x80]) = false := by decide

theorem test_ill_formed_fdec_empty : Instr.wf (.fdec []) = false := by decide

theorem test_ill_formed_frenc_text : Instr.wf (.frenc 0 0 0 [.string [0x00]]) = false := by decide

theorem test_ill_formed_frvfy_short : Instr.wf (.frvfy [2, 3]) = false := by decide

theorem test_ill_formed_send_text : Instr.wf (.send 0 0 0 [.string [0xFF]]) = false := by decide

theorem test_ill_formed_rxData_dle : Instr.wf (.rxData 0x10) = false := by decide

theorem test_ill_formed_rxOther_start : Instr.wf (.rxOther 0x02) = false := by decide

theorem test_ill_formed_rxOther_end : Instr.wf (.rxOther 0x03) = false := by decide

theorem test_ill_formed_rxOther_abort : Instr.wf (.rxOther 0x08) = false := by decide

theorem test_ill_formed_rxOther_dle : Instr.wf (.rxOther 0x10) = false := by decide

theorem test_ill_formed_frame_too_long (t : List Byte) (h : t.length = 65518) :
    Instr.wf (.frenc 0 0 0 [.string t]) = false := by
  simp [Instr.wf, headerWf, frameLength, Field.encodedLength, h]

theorem test_ill_formed_config : Config.wf { Config.reference with tagB := 0x53 } = false ∧ Config.wf { Config.reference with rxBufMax := some 15 } = false := by decide

/-! ## Witnesses: a state and operands that meet the hypotheses of each statement, for each of its clauses -/

/-- A faulted receive side inside a frame. -/
def faulted : State := { framerState .inMessage false [0x02] with rxFault := .rxOverflow }

/-- Inside a frame with the buffer at its capacity of 16. -/
def fullBuffer (esc : Bool) : State := { withCapacity 16 with mode := .inMessage, esc := esc, buf := 0x02 :: List.replicate 15 0x00 }

theorem next_of {o : Outcome} {t : State} (h : after o = some t) : o = .next t := by
  cases o <;> simp_all [after]

/-- Reset with one transaction presented. -/
def presenting (t : Transaction) : State := { State.reset with pending := [t] }

theorem witness_UnassignedWords (w : Byte) : (presenting (.command w .nothing)).pending = .command w .nothing :: [] := rfl

theorem witness_UnassignedWords_top : (0x80 : Byte).toNat / 128 = 1 := by decide

theorem witness_UnassignedWords_type_without_op4 : (0x10 : Byte).toNat / 16 % 8 ≠ 0 ∧ (0x10 : Byte).toNat % 16 ≠ 4 := by decide

theorem witness_UnassignedWords_type_above_4 : (0x54 : Byte).toNat / 16 % 8 > 4 ∧ (0x54 : Byte).toNat % 16 = 4 := by decide

theorem witness_UnassignedWords_op_above_10 : (0x0B : Byte).toNat % 16 > 10 := by decide

theorem witness_ReceivedByteHasTheClass : (0x11 : Byte) ≠ 0x10 ∧ (0x04 : Byte) ∉ [(0x02 : Byte), 0x03, 0x08, 0x10] := by decide

theorem witness_DecodeOfEncode : Config.reference.wf = true ∧ (Instr.rxOther 0x11).wf = true
    ∧ ∀ b, (Instr.rxOther 0x11).needsEsc = some b → true = b := by
  refine ⟨by decide, by decide, fun b h => ?_⟩
  cases h; rfl

theorem witness_EncodeOfDecode_command : decode Config.reference false (.command 0x0A (.header 1 2 3 [])) = .ok (.send 1 2 3 []) := rfl

theorem witness_EncodeOfDecode_rx : decode Config.reference true (.rx 0x10) = .ok .rxLitDle := rfl

theorem witness_StepRunsTheDecodedInstruction : (presenting (.rx 0x10)).pending = .rx 0x10 :: []
    ∧ decode (presenting (.rx 0x10)).cfg (presenting (.rx 0x10)).esc (.rx 0x10) = .ok .rxEsc := ⟨rfl, rfl⟩

theorem witness_StepRunsTheDecodedInstruction_idle : State.reset.pending = [] := rfl

theorem witness_StartStateIsTheResetState : ∃ t, exec .reset faulted = .next t := ⟨_, rfl⟩

theorem witness_EveryStepKeepsTheInvariant :
    State.Inv { framerState .inMessage false [0x02] with pending := [.rx 0x41] }
    ∧ ∃ t, step { framerState .inMessage false [0x02] with pending := [.rx 0x41] } = .next t :=
  ⟨⟨by decide, rfl, trivial⟩, ⟨_, rfl⟩⟩

/-- For the statements about every instruction that answers a next state. -/
theorem witness_exec_next : (∃ t, exec (.rxb 0x08) (framerState .inMessage true [0x02]) = .next t)
    ∧ (∃ t, exec (.send 0 0 1 []) State.reset = .next t) := ⟨⟨_, rfl⟩, ⟨_, rfl⟩⟩

theorem witness_StickyFaultIsLeftOnlyByReset : faulted.rxFault ≠ .none ∧ Instr.rxb 0x10 ≠ .reset
    ∧ ∃ t, exec (.rxb 0x10) faulted = .next t := ⟨by decide, by decide, ⟨_, rfl⟩⟩

theorem witness_PureOperationsOnlyAnswer : pureOperation (.fencS [0x41]) = true ∧ State.reset.cfg = faulted.cfg := by decide

theorem witness_ReceiveChangesOnlyTheFramerAndEvents : receiveOperation .rxAbort = true
    ∧ ∃ t, exec .rxAbort (framerState .inMessage true [0x02]) = .next t := ⟨rfl, ⟨_, rfl⟩⟩

theorem witness_SendAndReceiveCommute : (∃ t, exec (.send 0 0 1 []) (framerState .inMessage true [0x02]) = .next t)
    ∧ (∃ u, exec (.rxb 0x08) (framerState .inMessage true [0x02]) = .next u) := ⟨⟨_, rfl⟩, ⟨_, rfl⟩⟩

theorem witness_CrcOfMessageWithItsCrcIsZero :
    exec (.crc16 [0x01]) State.reset = .next { State.reset with result := some (.u16 0x1021) } := next_of (by decide)

theorem witness_packed_domain : (-500000000000 ≤ (-500000000000 : Int) ∧ (-500000000000 : Int) ≤ 499999999999)
    ∧ (-500000000000 ≤ (499999999999 : Int) ∧ (499999999999 : Int) ≤ 499999999999)
    ∧ ¬(-500000000000 ≤ (500000000000 : Int) ∧ (500000000000 : Int) ≤ 499999999999)
    ∧ ¬(-500000000000 ≤ (-500000000001 : Int) ∧ (-500000000001 : Int) ≤ 499999999999) := by decide

theorem witness_packed_digits : [(0x99 : Byte), 0x99, 0x99, 0x99, 0x99, 0x49].length = 6
    ∧ ∀ b ∈ [(0x99 : Byte), 0x99, 0x99, 0x99, 0x99, 0x49], b.toNat / 16 ≤ 9 ∧ b.toNat % 16 ≤ 9 := by decide

theorem witness_PddecReadsTheTwelveDigits_bad_digit : ∀ p, p = [(0x0A : Byte), 0x00, 0x00, 0xB0, 0x00, 0x00] →
    p.length = 6 ∧ (p[3]?.map (·.toNat / 16)) = some 11 ∧ ∀ b ∈ p.drop 4, b.toNat / 16 ≤ 9 ∧ b.toNat % 16 ≤ 9 := by
  rintro _ rfl; decide

theorem witness_PddecReadsTheTwelveDigits_length : (List.replicate 5 (0x00 : Byte)).length ≠ 6 := by decide

theorem witness_FencStringFramesTheText : (∀ b ∈ [(0x01 : Byte), 0x7F], 0x01 ≤ b.toNat ∧ b.toNat ≤ 0x7F)
    ∧ ¬(∀ b ∈ [(0x00 : Byte)], 0x01 ≤ b.toNat ∧ b.toNat ≤ 0x7F)
    ∧ ¬(∀ b ∈ [(0x80 : Byte)], 0x01 ≤ b.toNat ∧ b.toNat ≤ 0x7F) := by decide

theorem witness_FdecInvertsFenc : State.reset.cfg.wf = true ∧ Field.wf (.packed (-500000000000)) = true
    ∧ Field.wf (.string []) = true := by decide

theorem witness_FdecDispatchesOnTheTag : State.reset.cfg.wf = true ∧ (0x5A : Byte) ∉ State.reset.cfg.tags := by decide

theorem witness_StringFieldEndsAtTheFirstNul : ∀ b ∈ [(0x01 : Byte), 0xFF], b ≠ 0x00 := by decide

theorem witness_NumberFieldsReadTheirWidth : [(0x34 : Byte)].length < 2 ∧ [(0x01 : Byte), 0x02, 0x03].length < 4 := by decide

theorem witness_PackedField_bad_digit : [(0x0A : Byte), 0x00, 0x00, 0x00, 0x00, 0x00].length = 6
    ∧ ¬(∀ b ∈ [(0x0A : Byte), 0x00, 0x00, 0x00, 0x00, 0x00], b.toNat / 16 ≤ 9 ∧ b.toNat % 16 ≤ 9) := by decide

theorem witness_PackedField_truncated : (List.replicate 5 (0x0A : Byte)).length < 6 := by decide

/-- The longest frame: a text of 65517 codes makes 65535 bytes. -/
theorem witness_longest_frame (t : List Byte) (h : t.length = 65517) : frameLength [.string t] ≤ 65535 := by
  simp [frameLength, Field.encodedLength, h]

theorem witness_well_formed_fields : (∀ f ∈ [Field.byte 0x10, .word 0x0302, .string [0x4F, 0x4B]], f.wf = true)
    ∧ frameLength [.byte 0x10, .word 0x0302, .string [0x4F, 0x4B]] ≤ 65535 := by decide

theorem witness_FrencBuildsTheFrame_range : (∀ f ∈ [Field.byte 1], f.wf = true) ∧ inPdDomain 500000000000 = false
    ∧ (∀ f ∈ [Field.packed (-500000000001)], f.admitted = true)
    ∧ frameLength ([.byte 1] ++ [.packed 500000000000] ++ [.packed (-500000000001)]) ≤ 65535 := by decide

theorem witness_FrencBuildsTheFrame_length (n : Nat) (h : n = 65518) :
    (∀ f ∈ [Field.string (List.replicate n 0x41)], f.wf = true) ∧ frameLength [.string (List.replicate n 0x41)] > 65535 := by
  subst h
  constructor
  · simp only [List.mem_singleton, forall_eq, Field.wf, textWf, List.all_eq_true]
    intro b hb
    rw [List.eq_of_mem_replicate hb]; decide
  · simp only [frameLength, List.map_cons, List.map_nil, Field.encodedLength, List.length_replicate, List.sum_cons, List.sum_nil]
    omega

theorem witness_FrencBuildsTheFrame_text : (∃ f ∈ [Field.string [0x80], .byte 1], f.admitted = false)
    ∧ (∀ f ∈ [Field.string [0x80], .byte 1], f.admitted = true → f.wf = true)
    ∧ frameLength [.string [0x80], .byte 1] ≤ 65535 := by decide

theorem witness_FrdecChecks : (List.replicate 15 (0x02 : Byte)).length < 16
    ∧ (16 ≤ (List.replicate 16 (0x00 : Byte)).length ∧ (List.replicate 16 (0x00 : Byte))[0]? ≠ some 0x02)
    ∧ (16 ≤ (List.replicate 16 (0x02 : Byte)).length ∧ (List.replicate 16 (0x02 : Byte))[0]? = some 0x02
      ∧ (List.replicate 16 (0x02 : Byte))[16 - 1]? ≠ some 0x03) := by decide

/-- F1 and F1 with another declared length, count and checksum. -/
theorem witness_FrdecIgnores : frameF1.length = 16
    ∧ ∀ k ∈ List.range 16, k ∉ [7, 8, 9, 10, 16 - 3, 16 - 2] →
      frameF1[k]? = [(0x02 : Byte), 0x00, 0x00, 0x00, 0x00, 0x00, 0x00, 0xFF, 0xFF, 0xFF, 0xFF, 0x01, 0x00, 0x00, 0x00, 0x03][k]? := by
  decide

theorem witness_FrdecMessageReadsFixedOffsets : (exec (.frdec frameF2) State.reset)
    = .next { State.reset with result := some (.message messageF2) } := next_of (by decide)

theorem witness_FrvfyComparesTheChecksum : 16 ≤ frameF1.length
    ∧ (crc16 (slice frameF1 1 (frameF1.length - 4))).toNat = memRead frameF1 (frameF1.length - 3) 2 := by decide

theorem witness_FrvfyComparesTheChecksum_mismatch : 16 ≤ (List.replicate 16 (0x01 : Byte)).length
    ∧ (0x0101 : U16).toNat = memRead (List.replicate 16 (0x01 : Byte)) (16 - 3) 2
    ∧ crc16 (slice (List.replicate 16 (0x01 : Byte)) 1 (16 - 4)) ≠ 0x0101 := by decide

theorem witness_FrvfyComparesTheChecksum_short : (List.replicate 15 (0x01 : Byte)).length < 16 := by decide

theorem escape_frameF1 : escape frameF1 = wireF1 := by decide

theorem frameEnc_frameF1 : frameEnc Config.reference 0 0 1 [] = .built frameF1 := by decide

theorem witness_SendIs_written : exec (.frenc 0 0 1 []) State.reset = .next { State.reset with result := some (.bytes frameF1) }
    ∧ exec (.esc frameF1) State.reset = .next { State.reset with result := some (.bytes wireF1) }
    ∧ State.writeAnswer { State.reset with transport := [.accepted] } = .accepted
    ∧ State.writeAnswer { State.reset with transport := [.failed 0] } = .failed 0 := by
  refine ⟨?_, ?_, rfl, rfl⟩
  · simp only [exec, execFrenc, State.reset, frameEnc_frameF1]; rfl
  · simp only [exec, execEsc, escape_frameF1, State.answer]

theorem witness_SendIs_raised : exec (.frenc 0 0 1 [.packed 500000000000]) State.reset
    = .next { State.reset with result := some (.error (.rangeError 500000000000)) } := next_of (by decide)

theorem witness_SendIs_refused : exec (.frenc 0 0 1 [.string [0x00]]) State.reset = .refused .textNotAscii := rfl

theorem witness_RxbInIdle : State.reset.rxFault = .none ∧ State.reset.mode = .idle ∧ State.reset.esc = false
    ∧ (0x0F : Byte) ≠ 0x10 := by decide

theorem witness_RxbInIdleAfterDle : (framerState .idle true []).rxFault = .none ∧ (framerState .idle true []).mode = .idle
    ∧ (framerState .idle true []).esc = true ∧ (0x03 : Byte) ≠ 0x02 ∧ (0x11 : Byte) ∉ [(0x02 : Byte), 0x03, 0x08, 0x10] := by
  decide

theorem witness_RxbInMessage : (framerState .inMessage false [0x02]).rxFault = .none
    ∧ (framerState .inMessage false [0x02]).mode = .inMessage ∧ (framerState .inMessage false [0x02]).esc = false
    ∧ (framerState .inMessage false [0x02]).cfg.rxBufMax ≠ some (framerState .inMessage false [0x02]).buf.length := by decide

theorem witness_RxbInMessage_full : (fullBuffer false).rxFault = .none ∧ (fullBuffer false).mode = .inMessage
    ∧ (fullBuffer false).esc = false ∧ (fullBuffer false).cfg.rxBufMax = some (fullBuffer false).buf.length := by decide

/-- For RxbLiteralDleAndRestart, RxbEndOfFrame, RxbAbortInsideAFrame and RxbEscapeViolation. -/
theorem witness_dle_pending_in_message : (framerState .inMessage true [0x02]).rxFault = .none
    ∧ (framerState .inMessage true [0x02]).mode = .inMessage ∧ (framerState .inMessage true [0x02]).esc = true
    ∧ (framerState .inMessage true [0x02]).cfg.rxBufMax ≠ some (framerState .inMessage true [0x02]).buf.length
    ∧ (0x11 : Byte) ∉ [(0x02 : Byte), 0x03, 0x08, 0x10] := by decide

theorem witness_dle_pending_full : (fullBuffer true).rxFault = .none ∧ (fullBuffer true).mode = .inMessage
    ∧ (fullBuffer true).esc = true ∧ (fullBuffer true).cfg.rxBufMax = some (fullBuffer true).buf.length := by decide

theorem witness_RxbEndOfFrame_message :
    exec (.frdec ((framerState .inMessage true frameF1.dropLast).buf ++ [0x03])) (framerState .inMessage true frameF1.dropLast)
      = .next { framerState .inMessage true frameF1.dropLast with
        result := some (.message { flag := 0, token := 0, command := 1, length := 16, fields := [], checksum := 0x29B5 }) } :=
  next_of (by decide)

theorem witness_RxbEndOfFrame_error :
    exec (.frdec ((framerState .inMessage true [0x02]).buf ++ [0x03])) (framerState .inMessage true [0x02])
      = .next { framerState .inMessage true [0x02] with result := some (.error (.frameFormat .tooShort 2)) } := next_of (by decide)

theorem witness_ClassRowsAreRxbOfTheirByte : (State.reset.rxFault = .none ∧ State.reset.esc = false)
    ∧ (framerState .idle true []).rxFault = .none ∧ (framerState .idle true []).esc = true := by decide

theorem witness_RxchunkIsItsRxbSteps : (presenting (.delivery [0x10, 0x02])).pending = .delivery [0x10, 0x02] :: [] := rfl

theorem witness_WireUnits_in_message : (framerState .inMessage false [0x02]).rxFault = .none
    ∧ (framerState .inMessage false [0x02]).esc = false ∧ (framerState .inMessage false [0x02]).pending = []
    ∧ (framerState .inMessage false [0x02]).mode = .inMessage
    ∧ (framerState .inMessage false [0x02]).cfg.rxBufMax ≠ some (framerState .inMessage false [0x02]).buf.length := by decide

theorem witness_WireUnits_full : (fullBuffer false).rxFault = .none ∧ (fullBuffer false).esc = false
    ∧ (fullBuffer false).pending = [] ∧ (fullBuffer false).mode = .inMessage
    ∧ (fullBuffer false).cfg.rxBufMax = some (fullBuffer false).buf.length := by decide

theorem witness_WireUnits_idle : State.reset.rxFault = .none ∧ State.reset.esc = false ∧ State.reset.pending = []
    ∧ State.reset.mode = .idle := by decide

theorem witness_AbortThenANewFrameStarts : (framerState .inMessage false [0x02, 0x41]).rxFault = .none
    ∧ (framerState .inMessage false [0x02, 0x41]).mode = .inMessage ∧ (framerState .inMessage false [0x02, 0x41]).esc = false := by
  decide

/-- A frame of exactly the capacity. -/
theorem witness_StuffingRoundTrip : (withCapacity 16).rxFault = .none ∧ (withCapacity 16).mode = .idle
    ∧ (withCapacity 16).esc = false ∧ (withCapacity 16).buf = []
    ∧ (∀ m, (withCapacity 16).cfg.rxBufMax = some m → (List.replicate 14 (0x10 : Byte)).length + 2 ≤ m)
    ∧ exec (.esc ([0x02] ++ List.replicate 14 0x10 ++ [0x03])) (withCapacity 16)
      = .next { withCapacity 16 with result := some (.bytes ([0x10, 0x02] ++ List.replicate 28 0x10 ++ [0x10, 0x03])) } := by
  refine ⟨by decide, by decide, by decide, by decide, fun m h => ?_, next_of (by decide)⟩
  cases h; decide

theorem witness_SentMessageIsReceived : State.reset.cfg.wf = true ∧ (∀ f ∈ ([] : List Field), f.wf = true)
    ∧ frameLength [] ≤ 65535
    ∧ State.writeAnswer { State.reset with transport := [.accepted] } = .accepted ∧ State.reset.tx = []
    ∧ (∃ t, exec (.send 0 0 1 []) { State.reset with transport := [.accepted] } = .next t
      ∧ [wireF1.take 9, wireF1.drop 9].flatten = t.tx)
    ∧ State.reset.framer = (.idle, false, [], .none) ∧ (∀ m, State.reset.cfg.rxBufMax = some m → frameLength [] ≤ m) := by
  refine ⟨by decide, by decide, by decide, rfl, rfl, ⟨{ State.reset with tx := wireF1, result := some (.bytes wireF1), writes := 1 }, ?_, by decide⟩, rfl, fun m h => ?_⟩
  · simp only [exec, execSend, State.reset, frameEnc_frameF1, escape_frameF1]; rfl
  · cases h

theorem witness_TableWordIsWhatTheStepRuns : State.reset.cfg = Config.reference ∧ State.reset.esc = false
    ∧ decodeTableWord 16 0x1002 = some .wireStart ∧ decodeTableWord 8 0x0A = some (.send 0 0 0 []) := by decide

/-- A String with codes from 0x80, then a PackedDecimal. -/
theorem witness_FrdecReadsTheFieldsInOrder : State.reset.cfg.wf = true ∧ (List.replicate 12 (0xFF : Byte)).length = 12
    ∧ [(0x53 : Byte), 0x42].length = 2
    ∧ List.Forall₂ (fieldForm State.reset.cfg) [.string [0x80, 0xFF], .packed (-1)]
      [[0x53, 0x80, 0xFF, 0x00], [0x50, 0x99, 0x99, 0x99, 0x99, 0x99, 0x99]] := by
  refine ⟨by decide, by decide, by decide, .cons ⟨by decide, by decide⟩ (.cons ⟨List.replicate 6 0x99, by decide, by decide, ?_⟩ .nil)⟩
  rfl

theorem witness_FrdecReadsTheFieldsInOrder_defects : (0x5A : Byte) ∉ State.reset.cfg.tags ∧ (∀ b ∈ [(0x01 : Byte), 0xFF], b ≠ 0x00)
    ∧ [(0x01 : Byte)].length < 2 ∧ [(0x01 : Byte), 0x02, 0x03].length < 4 ∧ (List.replicate 5 (0x0A : Byte)).length < 6 := by decide

end Sys2Proof.Tests
end

section
/-! PROOFS. The operation-select word (30_encoding.md R71, R76): the assigned words are exactly the words `hostWord` gives. -/

namespace Sys2Proof

@[simp] theorem cwTop_toNat (cw : Byte) : (cwTop cw).toNat = cw.toNat / 128 := by
  have hlt : cw.toNat / 128 < 2 := by omega
  simpa [cwTop, Nat.shiftRight_eq_div_pow] using Nat.mod_eq_of_lt hlt

@[simp] theorem cwFt_toNat (cw : Byte) : (cwFt cw).toNat = cw.toNat / 16 % 8 := by
  simp [cwFt, Nat.shiftRight_eq_div_pow]

@[simp] theorem cwOp_toNat (cw : Byte) : (cwOp cw).toNat = cw.toNat % 16 := by
  simp [cwOp]

@[simp] theorem wordOf_toNat (ft : BitVec 3) (op : BitVec 4) : (wordOf ft op).toNat = 16 * ft.toNat + op.toNat := by
  have hor := Nat.shiftLeft_add_eq_or_of_lt op.isLt ft.toNat
  simp only [wordOf, BitVec.toNat_append, BitVec.toNat_ofNat, Nat.zero_mod, Nat.zero_shiftLeft, Nat.zero_or, ← hor]
  omega

/-- A word with `cw[7] = 0` is put together again from its `ft` and `op`. -/
theorem eq_wordOf {cw : Byte} {ft : BitVec 3} {op : BitVec 4} (htop : cwTop cw = 0) (hft : cwFt cw = ft) (hop : cwOp cw = op) :
    cw = wordOf ft op := by
  have hnat : cw.toNat / 128 = 0 := by rw [← cwTop_toNat, htop]; rfl
  apply BitVec.eq_of_toNat_eq
  rw [wordOf_toNat, ← hft, ← hop, cwFt_toNat, cwOp_toNat]
  omega

@[simp] theorem hostOpOf_hostWord (op : HostOp) : hostOpOf (hostWord op) = some op := by
  cases op <;> decide

/-- Only the word of R71 selects an operation. -/
theorem eq_hostWord_of_hostOpOf {cw : Byte} {op : HostOp} (h : hostOpOf cw = some op) : cw = hostWord op := by
  simp only [hostOpOf, ite_eq_iff, Option.some.injEq, reduceCtorEq, and_false, false_or, or_false, not_not] at h
  obtain ⟨htop, ⟨hop, h⟩ | ⟨-, hft, h⟩⟩ := h
  · obtain ⟨hft, rfl⟩ | ⟨-, ⟨hft, rfl⟩ | ⟨-, ⟨hft, rfl⟩ | ⟨-, ⟨hft, rfl⟩ | ⟨-, hft, rfl⟩⟩⟩⟩ := h
    all_goals exact eq_wordOf htop hft hop
  · obtain ⟨hop, rfl⟩ | ⟨-, ⟨hop, rfl⟩ | ⟨-, ⟨hop, rfl⟩ | ⟨-, ⟨hop, rfl⟩ | ⟨-, ⟨hop, rfl⟩ | ⟨-, ⟨hop, rfl⟩ | ⟨-, ⟨hop, rfl⟩
      | ⟨-, ⟨hop, rfl⟩ | ⟨-, ⟨hop, rfl⟩ | ⟨-, hop, rfl⟩⟩⟩⟩⟩⟩⟩⟩⟩ := h
    all_goals exact eq_wordOf htop hft hop

/-- What R71 lays down for every assigned word: `cw[7]` is 0, `op` is at most 0xA, and `ft` is 0 but with `op = 4`, where it is at
most 4. -/
theorem hostWord_fields (op : HostOp) :
    (hostWord op).toNat / 128 = 0 ∧ (hostWord op).toNat % 16 ≤ 10 ∧
      ((hostWord op).toNat / 16 % 8 = 0 ∨ (hostWord op).toNat % 16 = 4 ∧ (hostWord op).toNat / 16 % 8 ≤ 4) := by
  cases op <;> decide

/-- The four kinds of unassigned words (R76) select no operation. -/
theorem hostOpOf_eq_none {cw : Byte}
    (hcw : cw.toNat / 128 = 1 ∨ (cw.toNat / 16 % 8 ≠ 0 ∧ cw.toNat % 16 ≠ 4)
      ∨ (cw.toNat / 16 % 8 > 4 ∧ cw.toNat % 16 = 4) ∨ cw.toNat % 16 > 10) : hostOpOf cw = none := by
  refine Option.eq_none_iff_forall_ne_some.mpr fun op hop => ?_
  have hfields := hostWord_fields op
  rw [← eq_hostWord_of_hostOpOf hop] at hfields
  omega

theorem decodeCommand_of_hostOpOf_eq_none {cw : Byte} (h : hostOpOf cw = none) (operands : Operands) :
    decodeCommand cw operands = .error (.unassignedWord cw) := by
  rw [decodeCommand, h]

theorem decode_command_of_eq_hostWord {cw : Byte} {op : HostOp} (hcw : cw = hostWord op) (c : Config) (e : Bool)
    (operands : Operands) : decode c e (.command cw operands) = withOperands op operands := by
  rw [decode, decodeCommand, hcw, hostOpOf_hostWord]

namespace Machine

/-- A transaction that decodes to no instruction is refused with the decoder's reason. -/
theorem step_of_decode_error {s : State} {t : Transaction} {rest : List Transaction} {r : Rejection}
    (hpending : s.pending = t :: rest) (hdecode : decode s.cfg s.esc t = .error r) :
    step s = .refused (.rejected r) := by
  simp only [step, hpending, hdecode]

end Machine

/-- Settles O2: a word that selects an operation is one `hostWord` gives, and none of those is of the four kinds. -/
theorem unassignedWordsAreRefused : Obligations.UnassignedWordsAreRefused := by
  intro s cw operands rest hpending hcw
  exact Machine.step_of_decode_error hpending (decodeCommand_of_hostOpOf_eq_none (hostOpOf_eq_none hcw) operands)

/-- Settles O1: each word of the statement is `hostWord` of its operation, with operands `withOperands` takes. -/
theorem assignedWordsSelectTheirOperations : Obligations.AssignedWordsSelectTheirOperations := by
  intro c e s v v8 v16 v32 k fs
  have word {cw : Byte} {op : HostOp} (hcw : cw = hostWord op) {operands : Operands} :=
    decode_command_of_eq_hostWord hcw c e operands
  exact ⟨word (op := .reset) rfl, word (op := .crc16) rfl, word (op := .pdenc) rfl, word (op := .pddec) rfl,
    word (op := .fencS) rfl, word (op := .fencB) rfl, word (op := .fencW) rfl, word (op := .fencL) rfl,
    word (op := .fencP) rfl, word (op := .fdec) rfl, word (op := .frenc) rfl, word (op := .frdec) rfl,
    word (op := .frvfy) rfl, word (op := .esc) rfl, word (op := .send) rfl⟩

end Sys2Proof
end

section
/-! PROOFS. CRC16 (40_checksum.md R81, R82): its reply, one byte, and leading zeros. -/

namespace Sys2Proof.Machine

/-- CRC16 answers with the checksum and leaves everything else. -/
theorem exec_crc16 (bytes : List Byte) (s : State) :
    exec (.crc16 bytes) s = .next { s with result := some (.u16 (crc16 bytes)) } := rfl

@[simp] theorem crc16_singleton (b : Byte) : crc16 [b] = crcTable b := crcStep_zero_left b

/-- The register stays 0 over zero bytes, since `CrcStep(0, 0) = 0`. -/
@[simp] theorem crc16_replicate_zero (n : Nat) : crc16 (List.replicate n 0x00) = 0x0000 := by
  induction n with
  | zero => exact crc16_nil
  | succ n ih =>
    calc crc16 (List.replicate (n + 1) 0x00)
      _ = crcStep (crc16 (List.replicate n 0x00)) 0x00 := by rw [List.replicate_succ', crc16_append]; rfl
      _ = 0x0000 := by rw [ih]; exact crcStep_zero

/-- Leading zeros leave the register at its seed, so the fold over the rest starts as it would without them. -/
@[simp] theorem crc16_replicate_zero_append (n : Nat) (bytes : List Byte) :
    crc16 (List.replicate n 0x00 ++ bytes) = crc16 bytes := by
  rw [crc16_append, crc16_replicate_zero, crc16]

end Sys2Proof.Machine

namespace Sys2Proof
open Machine

/-- Settles O19: CRC16 answers with `crc16`, whose definition is the fold, and each corner case is a lemma about `crc16`. -/
theorem crc16FoldsTheTableStep : Obligations.Crc16FoldsTheTableStep := by
  intro b bytes n s
  refine ⟨decode_command_of_eq_hostWord (op := .crc16) rfl s.cfg s.esc _, exec_crc16 bytes s, ?_, ?_, ?_, ?_⟩
  · rw [exec_crc16, crc16_nil]
  · rw [exec_crc16, crc16_singleton]
  · rw [exec_crc16, crc16_replicate_zero]
  · rw [exec_crc16, exec_crc16, crc16_replicate_zero_append]

end Sys2Proof
end

section
/-! PROOFS. PDENC and PDDEC (41_packed_decimal.md R90 to R92): their replies, and a magnitude as the base-100 number of its bytes. -/

namespace Sys2Proof.Machine

theorem exec_pdenc_of_domain {v : Int} (hv : -500000000000 ≤ v ∧ v ≤ 499999999999) (s : State) :
    exec (.pdenc v) s = .next { s with result := some (.bytes ((List.range 6).map (pdByte (pdMagnitude v)))) } := by
  rw [exec, execPdenc, pdEnc_of_domain hv]; rfl

theorem exec_pdenc_out_of_domain {v : Int} (hv : ¬(-500000000000 ≤ v ∧ v ≤ 499999999999)) (s : State) :
    exec (.pdenc v) s = .next { s with result := some (.error (.rangeError v)) } := by
  rw [exec, execPdenc, pdEnc_out_of_domain hv]; rfl

/-- On six bytes PDDEC answers with what `pdDec` gives. -/
theorem exec_pddec_of_length {p : List Byte} (hlen : p.length = 6) (s : State) :
    exec (.pddec p) s = s.finish ((pdDec p).map .int) := by
  simp [exec, execPddec, sixBytes, hlen]

theorem exec_pddec_of_length_ne {p : List Byte} (hlen : p.length ≠ 6) (s : State) :
    exec (.pddec p) s = .refused .notSixBytes := by
  simp [exec, execPddec, sixBytes, hlen]

theorem exec_pddec_of_decimal {p : List Byte} (hlen : p.length = 6) (hp : ∀ b ∈ p, Decimal b) (s : State) :
    exec (.pddec p) s = .next { s with result := some (.int (pdSigned (base100 p))) } := by
  rw [exec_pddec_of_length hlen, pdDec, pdValue_of_decimal hp]; rfl

theorem exec_pddec_of_bad {p : List Byte} (hlen : p.length = 6) {k : Nat} (hk : k < p.length) (hbad : ¬Decimal p[k])
    (hafter : ∀ j (hj : j < p.length), k < j → Decimal p[j]) (s : State) :
    exec (.pddec p) s = .next { s with result := some (.error (.digitError k p[k])) } := by
  rw [exec_pddec_of_length hlen, pdDec, pdValue_of_bad hk hbad hafter, Nat.zero_add]; rfl

theorem pdByte_div (u k : Nat) : (pdByte u k).toNat / 16 = u / (10 * 100 ^ k) % 10 := by
  rw [pdByte_toNat]; omega

theorem pdByte_mod (u k : Nat) : (pdByte u k).toNat % 16 = u / 100 ^ k % 10 := by
  rw [pdByte_toNat]; omega

theorem decimal_pdByte (u k : Nat) : Decimal (pdByte u k) := by
  rw [Decimal, pdByte_div, pdByte_mod]; omega

/-- Byte `k + 1` of a magnitude is byte `k` of its hundreds. -/
theorem pdByte_succ (u k : Nat) : pdByte u (k + 1) = pdByte (u / 100) k := by
  simp only [pdByte, Nat.div_div_eq_div_mul, pow_succ', Nat.mul_left_comm 10 100]

/-- The lowest byte holds the two lowest digits. -/
theorem twoDigits_pdByte_zero (u : Nat) : twoDigits (pdByte u 0) = u % 100 := by
  rw [twoDigits, pdByte_div, pdByte_mod]; omega

/-- The first `n` payload bytes write the lowest `2n` digits of the magnitude. -/
theorem base100_map_pdByte (n u : Nat) : base100 ((List.range n).map (pdByte u)) = u % 100 ^ n := by
  induction n generalizing u with
  | zero => simp [base100, Nat.mod_one]
  | succ n ih =>
    have htail : (pdByte u ∘ Nat.succ) = pdByte (u / 100) := funext (pdByte_succ u)
    rw [List.range_succ_eq_map, List.map_cons, List.map_map, htail, base100, ih, twoDigits_pdByte_zero, pow_succ',
      Nat.mod_mul]

/-- The natural number R90 names is `pdMagnitude`. -/
theorem eq_pdMagnitude {v : Int} {u : Nat} (hu : (u : Int) = if v < 0 then v + 1000000000000 else v) :
    u = pdMagnitude v := by
  rw [pdMagnitude, ← hu, Int.toNat_natCast]

/-- The magnitude of a value of the domain has at most twelve digits. -/
theorem pdMagnitude_lt {v : Int} (hv : -500000000000 ≤ v ∧ v ≤ 499999999999) : pdMagnitude v < 100 ^ 6 := by
  rw [pdMagnitude]; split <;> omega

/-- The sign rule of R91 undoes the bias of R90 in the domain. -/
theorem pdSigned_pdMagnitude {v : Int} (hv : -500000000000 ≤ v ∧ v ≤ 499999999999) : pdSigned (pdMagnitude v) = v := by
  rw [pdSigned, pdMagnitude]; split <;> split <;> omega

/-- The magnitude of six bytes, written out place by place as R91 does. -/
theorem base100_six (p0 p1 p2 p3 p4 p5 : Byte) :
    base100 [p0, p1, p2, p3, p4, p5] = twoDigits p0 + twoDigits p1 * 100 + twoDigits p2 * 100 ^ 2
      + twoDigits p3 * 100 ^ 3 + twoDigits p4 * 100 ^ 4 + twoDigits p5 * 100 ^ 5 := by
  simp only [base100]; ring

end Sys2Proof.Machine

namespace Sys2Proof
open Machine

/-- Settles O22: in the domain byte `k` is `pdByte` of the magnitude, whose nibbles are the two digits of its place. -/
theorem pdencPacksTheTwelveDigits : Obligations.PdencPacksTheTwelveDigits := by
  intro v s
  refine ⟨decode_command_of_eq_hostWord (op := .pdenc) rfl s.cfg s.esc _, fun hv => ?_, fun hv => exec_pdenc_out_of_domain hv s⟩
  refine ⟨_, exec_pdenc_of_domain hv s, by simp, fun k hk u hu => ?_⟩
  rw [List.getElem_map, List.getElem_range, eq_pdMagnitude hu]
  exact ⟨pdByte_div _ k, pdByte_mod _ k⟩

/-- Settles O23: decimal bytes are read as the base-100 number they write; of several bad bytes the last one decides. -/
theorem pddecReadsTheTwelveDigits : Obligations.PddecReadsTheTwelveDigits := by
  intro p0 p1 p2 p3 p4 p5 p s
  refine ⟨decode_command_of_eq_hostWord (op := .pddec) rfl s.cfg s.esc _, fun hdecimal u hu => ?_,
    fun k hk hlen hbad hafter => exec_pddec_of_bad hlen hk (by rw [Decimal]; omega) hafter s,
    fun hlen => exec_pddec_of_length_ne hlen s⟩
  have hvalue : u = base100 [p0, p1, p2, p3, p4, p5] := hu.trans (base100_six p0 p1 p2 p3 p4 p5).symm
  rw [hvalue]
  exact exec_pddec_of_decimal rfl hdecimal s

/-- Settles O24: the six bytes write the magnitude, which has no more than twelve digits, and its sign is restored. -/
theorem pddecInvertsPdenc : Obligations.PddecInvertsPdenc := by
  intro v s hmin hmax
  have hv : -500000000000 ≤ v ∧ v ≤ 499999999999 := ⟨hmin, hmax⟩
  have hdecimal : ∀ b ∈ (List.range 6).map (pdByte (pdMagnitude v)), Decimal b :=
    List.forall_mem_map.mpr fun k _ => decimal_pdByte _ k
  have hvalue : pdSigned (base100 ((List.range 6).map (pdByte (pdMagnitude v)))) = v := by
    rw [base100_map_pdByte, Nat.mod_eq_of_lt (pdMagnitude_lt hv), pdSigned_pdMagnitude hv]
  refine ⟨_, exec_pdenc_of_domain hv s, ?_⟩
  rw [exec_pddec_of_decimal (by simp) hdecimal, hvalue]

end Sys2Proof
end

section
/-! PROOFS. The field encoders (42_field.md R101 to R105): their replies, and a number's bytes from its bits. -/

namespace Sys2Proof.Machine

/-- FENC.S takes exactly the well-formed texts (42_field.md R101). -/
theorem exec_fencS (t : List Byte) (s : State) :
    exec (.fencS t) s = if textWf t then .next { s with result := some (.bytes (fencString s.cfg t)) }
      else .refused .textNotAscii := rfl

/-- FENC.P answers with what `fencPacked` gives. -/
theorem exec_fencP (v : Int) (s : State) : exec (.fencP v) s = s.finish ((fencPacked s.cfg v).map .bytes) := rfl

theorem fencPacked_of_domain {v : Int} (hv : -500000000000 ≤ v ∧ v ≤ 499999999999) (c : Config) :
    fencPacked c v = .ok (c.tagP :: (List.range 6).map (pdByte (pdMagnitude v))) := by
  rw [fencPacked, pdEnc_of_domain hv]

theorem fencPacked_out_of_domain {v : Int} (hv : ¬(-500000000000 ≤ v ∧ v ≤ 499999999999)) (c : Config) :
    fencPacked c v = .error (.rangeError v) := by
  rw [fencPacked, pdEnc_out_of_domain hv]

theorem exec_fencP_of_domain {v : Int} (hv : -500000000000 ≤ v ∧ v ≤ 499999999999) (s : State) :
    exec (.fencP v) s
      = .next { s with result := some (.bytes (s.cfg.tagP :: (List.range 6).map (pdByte (pdMagnitude v)))) } := by
  rw [exec_fencP, fencPacked_of_domain hv]; rfl

theorem exec_fencP_out_of_domain {v : Int} (hv : ¬(-500000000000 ≤ v ∧ v ≤ 499999999999)) (s : State) :
    exec (.fencP v) s = .next { s with result := some (.error (.rangeError v)) } := by
  rw [exec_fencP, fencPacked_out_of_domain hv]; rfl

/-- Byte `i` of `LE_n(v)` is `v` shifted down by `i` bytes. -/
theorem leBytes_eq_map (n v : Nat) : leBytes n v = (List.range n).map fun i => BitVec.ofNat 8 (v >>> (8 * i)) := by
  induction n generalizing v with
  | zero => rfl
  | succ n ih =>
    rw [leBytes, ih, List.range_succ_eq_map, List.map_cons, List.map_map]
    congr 2
    funext i
    rw [Function.comp_apply, Nat.mul_succ, Nat.add_comm, Nat.shiftRight_add, Nat.shiftRight_eq_div_pow v 8]

/-- Byte `i` of `LE_n` of a word is its bits `8i+7 .. 8i`. -/
theorem leBytes_toNat {width : Nat} (n : Nat) (v : BitVec width) :
    leBytes n v.toNat = (List.range n).map fun i => v.extractLsb' (8 * i) 8 := leBytes_eq_map n v.toNat

theorem fencWord_eq_extract (c : Config) (v : U16) :
    fencWord c v = [c.tagW, v.extractLsb' 0 8, v.extractLsb' 8 8] := by
  rw [fencWord, leBytes_toNat]; rfl

theorem fencLong_eq_extract (c : Config) (v : U32) :
    fencLong c v
      = [c.tagL, v.extractLsb' 0 8, v.extractLsb' 8 8, v.extractLsb' 16 8, v.extractLsb' 24 8] := by
  rw [fencLong, leBytes_toNat]; rfl

theorem exec_fencB (v : Byte) (s : State) :
    exec (.fencB v) s = .next { s with result := some (.bytes (fencByte s.cfg v)) } := rfl

theorem exec_fencW (v : U16) (s : State) :
    exec (.fencW v) s = .next { s with result := some (.bytes (fencWord s.cfg v)) } := rfl

theorem exec_fencL (v : U32) (s : State) :
    exec (.fencL v) s = .next { s with result := some (.bytes (fencLong s.cfg v)) } := rfl

/-- The encoder of a well-formed Field answers with its encoding (42_field.md R100). -/
theorem exec_encoderOf {f : Field} (hf : f.wf = true) {s : State} {b : List Byte} (hb : fieldEnc s.cfg f = .ok b) :
    exec (encoderOf f) s = .next { s with result := some (.bytes b) } := by
  cases f with
  | string t => cases hb; exact (exec_fencS t s).trans (if_pos hf)
  | byte v => cases hb; exact exec_fencB v s
  | word v => cases hb; exact exec_fencW v s
  | long v => cases hb; exact exec_fencL v s
  | packed v =>
    have hpacked : fencPacked s.cfg v = .ok b := hb
    rw [encoderOf, exec_fencP, hpacked]; rfl

end Sys2Proof.Machine

namespace Sys2Proof
open Machine

/-- Settles O26: `textWf` says that every code is in 0x01..0x7F, and decides between the answer and the refusal. -/
theorem fencStringFramesTheText : Obligations.FencStringFramesTheText := by
  intro t s
  refine ⟨decode_command_of_eq_hostWord (op := .fencS) rfl s.cfg s.esc _, fun ht => ?_, fun ht => ?_⟩
  · rw [exec_fencS, if_pos ((textWf_iff t).2 ht), fencString]
  · rw [exec_fencS, if_neg fun hwf => ht ((textWf_iff t).1 hwf)]

/-- Settles O27: the bytes of `LE_n` are the bytes of the value's bits, the lowest first. -/
theorem fencNumbersAreLittleEndian : Obligations.FencNumbersAreLittleEndian := by
  intro v8 v16 v32 s
  refine ⟨decode_command_of_eq_hostWord (op := .fencB) rfl s.cfg s.esc _,
    decode_command_of_eq_hostWord (op := .fencW) rfl s.cfg s.esc _,
    decode_command_of_eq_hostWord (op := .fencL) rfl s.cfg s.esc _, ?_, ?_, ?_⟩
  · rw [exec_fencB, fencByte]
  · rw [exec_fencW, fencWord_eq_extract]
  · rw [exec_fencL, fencLong_eq_extract]

/-- Settles O28: PDENC and FENC.P both end as `pdEnc` does, in the domain and outside it. -/
theorem fencPackedIsTagThenPdenc : Obligations.FencPackedIsTagThenPdenc := by
  intro v s
  exact ⟨decode_command_of_eq_hostWord (op := .fencP) rfl s.cfg s.esc _,
    fun hv => ⟨_, exec_pdenc_of_domain hv s, exec_fencP_of_domain hv s⟩, fun hv => exec_fencP_out_of_domain hv s⟩

end Sys2Proof
end

section
/-! PROOFS. Decoding what a field encoder gives (42_field.md R106 to R112): the tag selects the format, and each format reads
back its payload, whatever bytes follow. -/

namespace Sys2Proof.Machine

/-- The five tags of a legal configuration are pairwise distinct (30_encoding.md R60). -/
theorem tags_ne_of_wf {c : Config} (hc : c.wf = true) :
    c.tagB ≠ c.tagS ∧ (c.tagW ≠ c.tagS ∧ c.tagW ≠ c.tagB) ∧ (c.tagL ≠ c.tagS ∧ c.tagL ≠ c.tagB ∧ c.tagL ≠ c.tagW)
      ∧ c.tagP ≠ c.tagS ∧ c.tagP ≠ c.tagB ∧ c.tagP ≠ c.tagW ∧ c.tagP ≠ c.tagL := by
  rw [Config.wf, Bool.and_eq_true, decide_eq_true_iff] at hc
  have hnodup : c.tags.Nodup := hc.1
  simp only [Config.tags, List.nodup_cons, List.mem_cons, List.not_mem_nil, or_false, not_or] at hnodup
  obtain ⟨⟨hSB, hSW, hSL, hSP⟩, ⟨hBW, hBL, hBP⟩, ⟨hWL, hWP⟩, hLP, -⟩ := hnodup
  exact ⟨Ne.symm hSB, ⟨Ne.symm hSW, Ne.symm hBW⟩, ⟨Ne.symm hSL, Ne.symm hBL, Ne.symm hWL⟩,
    Ne.symm hSP, Ne.symm hBP, Ne.symm hWP, Ne.symm hLP⟩

section Dispatch

variable {c : Config} (hc : c.wf = true) (p : Nat) (w : List Byte)

theorem fieldDec_tagS : fieldDec c p c.tagS w = fdecString (p + 1) w := if_pos rfl

include hc

theorem fieldDec_tagB : fieldDec c p c.tagB w = fdecByte (p + 1) w := by
  obtain ⟨hS, -⟩ := tags_ne_of_wf hc
  rw [fieldDec, if_neg hS, if_pos rfl]

theorem fieldDec_tagW : fieldDec c p c.tagW w = fdecWord (p + 1) w := by
  obtain ⟨-, ⟨hS, hB⟩, -⟩ := tags_ne_of_wf hc
  rw [fieldDec, if_neg hS, if_neg hB, if_pos rfl]

theorem fieldDec_tagL : fieldDec c p c.tagL w = fdecLong (p + 1) w := by
  obtain ⟨-, -, ⟨hS, hB, hW⟩, -⟩ := tags_ne_of_wf hc
  rw [fieldDec, if_neg hS, if_neg hB, if_neg hW, if_pos rfl]

theorem fieldDec_tagP : fieldDec c p c.tagP w = fdecPacked (p + 1) w := by
  obtain ⟨-, -, -, hS, hB, hW, hL⟩ := tags_ne_of_wf hc
  rw [fieldDec, if_neg hS, if_neg hB, if_neg hW, if_neg hL, if_pos rfl]

end Dispatch

theorem fdecString_append_nul {t : List Byte} (ht : ∀ b ∈ t, b ≠ 0x00) (q : Nat) (rest : List Byte) :
    fdecString q (t ++ 0x00 :: rest) = .ok (.string t, rest) := by
  rw [fdecString, splitAtNul_append ht]

theorem fdecByte_cons (q : Nat) (v : Byte) (rest : List Byte) : fdecByte q (v :: rest) = .ok (.byte v, rest) := rfl

/-- A word of `n` bytes is read back from its `LE_n` at the front of a window. -/
theorem ofNat_memRead_leBytes {n width : Nat} (hwidth : 256 ^ n = 2 ^ width) (v : BitVec width) (rest : List Byte) :
    BitVec.ofNat width (memRead (leBytes n v.toNat ++ rest) 0 n) = v := by
  rw [memRead, slice, List.drop_zero, List.take_left' (leBytes_length n _), leValue_leBytes, hwidth,
    Nat.mod_eq_of_lt v.isLt, BitVec.ofNat_toNat, BitVec.setWidth_eq]

theorem fdecWord_leBytes_append (q : Nat) (v : U16) (rest : List Byte) :
    fdecWord q (leBytes 2 v.toNat ++ rest) = .ok (.word v, rest) := by
  have hlen : ¬(leBytes 2 v.toNat ++ rest).length < 2 := by rw [List.length_append, leBytes_length]; omega
  rw [fdecWord, if_neg hlen, ofNat_memRead_leBytes rfl, List.drop_left' (leBytes_length 2 _)]

theorem fdecLong_leBytes_append (q : Nat) (v : U32) (rest : List Byte) :
    fdecLong q (leBytes 4 v.toNat ++ rest) = .ok (.long v, rest) := by
  have hlen : ¬(leBytes 4 v.toNat ++ rest).length < 4 := by rw [List.length_append, leBytes_length]; omega
  rw [fdecLong, if_neg hlen, ofNat_memRead_leBytes rfl, List.drop_left' (leBytes_length 4 _)]

/-- `PDDEC` reads back the bytes of a magnitude in the domain (41_packed_decimal.md R92). -/
theorem pdDec_map_pdByte {v : Int} (hv : -500000000000 ≤ v ∧ v ≤ 499999999999) :
    pdDec ((List.range 6).map (pdByte (pdMagnitude v))) = .ok v := by
  have hdecimal : ∀ b ∈ (List.range 6).map (pdByte (pdMagnitude v)), Decimal b :=
    List.forall_mem_map.mpr fun k _ => decimal_pdByte _ k
  rw [pdDec, pdValue_of_decimal hdecimal, base100_map_pdByte, Nat.mod_eq_of_lt (pdMagnitude_lt hv)]
  exact congrArg Except.ok (pdSigned_pdMagnitude hv)

theorem fdecPacked_map_pdByte_append {v : Int} (hv : -500000000000 ≤ v ∧ v ≤ 499999999999) (q : Nat) (rest : List Byte) :
    fdecPacked q ((List.range 6).map (pdByte (pdMagnitude v)) ++ rest) = .ok (.packed v, rest) := by
  have hlen : ((List.range 6).map (pdByte (pdMagnitude v))).length = 6 := by simp
  have hwidth : ¬((List.range 6).map (pdByte (pdMagnitude v)) ++ rest).length < 6 := by simp
  rw [fdecPacked, if_neg hwidth, List.take_left' hlen, List.drop_left' hlen, pdDec_map_pdByte hv]

/-- A text FENC.S takes holds no NUL that would end the scan of FDEC early. -/
theorem ne_zero_of_textWf {t : List Byte} (ht : textWf t = true) : ∀ b ∈ t, b ≠ 0x00 := by
  rintro b hb rfl
  exact absurd ((textWf_iff t).1 ht _ hb).1 (by decide)

/-- `FDec` of `FEnc` (42_field.md R112): at any offset and with any bytes behind it, a well-formed Field's encoding is read
back whole and nothing more is taken. -/
theorem fieldDec_fieldEnc {c : Config} (hc : c.wf = true) {f : Field} (hf : f.wf = true) :
    ∃ tag w, fieldEnc c f = .ok (tag :: w) ∧ ∀ p rest, fieldDec c p tag (w ++ rest) = .ok (f, rest) := by
  cases f with
  | string t =>
    refine ⟨c.tagS, t ++ [0x00], rfl, fun p rest => ?_⟩
    rw [fieldDec_tagS, List.append_assoc]
    exact fdecString_append_nul (ne_zero_of_textWf hf) _ rest
  | byte v => exact ⟨c.tagB, [v], rfl, fun p rest => (fieldDec_tagB hc p _).trans (fdecByte_cons _ v rest)⟩
  | word v =>
    exact ⟨c.tagW, leBytes 2 v.toNat, rfl, fun p rest =>
      (fieldDec_tagW hc p _).trans (fdecWord_leBytes_append _ v rest)⟩
  | long v =>
    exact ⟨c.tagL, leBytes 4 v.toNat, rfl, fun p rest =>
      (fieldDec_tagL hc p _).trans (fdecLong_leBytes_append _ v rest)⟩
  | packed v =>
    have hv := (inPdDomain_iff v).1 hf
    exact ⟨c.tagP, _, fencPacked_of_domain hv c, fun p rest =>
      (fieldDec_tagP hc p _).trans (fdecPacked_map_pdByte_append hv _ rest)⟩

theorem exec_fdec_cons (tag : Byte) (w : List Byte) (s : State) :
    exec (.fdec (tag :: w)) s = s.finish (fieldReply (1 + w.length) (fieldDec s.cfg 0 tag w)) := rfl

/-- Where the field decode leaves exactly the bytes behind the field, FDEC answers with the Field and the field's length. -/
theorem exec_fdec_of_fieldDec {s : State} {tag : Byte} {w rest : List Byte} {f : Field}
    (h : fieldDec s.cfg 0 tag (w ++ rest) = .ok (f, rest)) :
    exec (.fdec (tag :: w ++ rest)) s = .next { s with result := some (.field f (tag :: w).length) } := by
  have hused : 1 + (w ++ rest).length - rest.length = (tag :: w).length := by
    rw [List.length_append, List.length_cons]; omega
  rw [List.cons_append, exec_fdec_cons, h, fieldReply, hused]; rfl

end Sys2Proof.Machine

namespace Sys2Proof
open Machine

/-- Settles O29: the encoding is a tag and a payload, the field decode reads both back, and it took all but what follows. -/
theorem fdecInvertsFenc : Obligations.FdecInvertsFenc := by
  intro f s hcfg hf
  obtain ⟨tag, w, henc, hdec⟩ := fieldDec_fieldEnc hcfg hf
  refine ⟨tag :: w, exec_encoderOf hf henc, fieldEnc_length henc, fun rest => ?_⟩
  rw [exec_fdec_of_fieldDec (hdec 0 rest), fieldEnc_length henc]

end Sys2Proof
end

section
/-! PROOFS. The layout of a built frame (30_encoding.md R50): what stands at each offset of `frameBytes`. -/

namespace Sys2Proof.Machine

theorem slice_cons_succ (b : Byte) (s : List Byte) (a n : Nat) : slice (b :: s) (a + 1) n = slice s a n := rfl

/-- A slice that begins behind `s` in `s ++ t` is a slice of `t`. -/
theorem slice_append_of_length_le {s : List Byte} {a : Nat} (h : s.length ≤ a) (t : List Byte) (n : Nat) :
    slice (s ++ t) a n = slice t (a - s.length) n := by
  rw [slice, slice, List.drop_append, List.drop_eq_nil_of_le h, List.nil_append]

theorem slice_append_left {s : List Byte} {n : Nat} (h : s.length = n) (t : List Byte) : slice (s ++ t) 0 n = s := by
  rw [slice, List.drop_zero, List.take_left' h]

/-- A word of `n` bytes is the value of its `LE_n`. -/
theorem leValue_leBytes_toNat {n width : Nat} (hwidth : 256 ^ n = 2 ^ width) (v : BitVec width) :
    leValue (leBytes n v.toNat) = v.toNat := by
  rw [leValue_leBytes, hwidth, Nat.mod_eq_of_lt v.isLt]

/-- A number that fits 16 bits is the value of its `LE_2`. -/
theorem leValue_leBytes_two {v : Nat} (hv : v ≤ 65535) : leValue (leBytes 2 v) = v := by
  rw [leValue_leBytes]; omega

section Layout

variable (flag : U16) (token : U32) (command : U16) (count : Nat) (body : List Byte)

/-- Start marker, the bytes the checksum covers, the checksum, end marker. -/
theorem frameBytes_eq : frameBytes flag token command count body
    = stx :: (frameCovered flag token command count body
      ++ (leBytes 2 (crc16 (frameCovered flag token command count body)).toNat ++ [etx])) := by
  rw [frameBytes, List.append_assoc, List.append_assoc, List.singleton_append]

/-- The covered bytes lie at offsets `1 .. N−4`. -/
theorem slice_frameBytes_covered :
    slice (frameBytes flag token command count body) 1 ((frameBytes flag token command count body).length - 4)
      = frameCovered flag token command count body := by
  have hlen : (frameCovered flag token command count body).length = 16 + body.length - 4 := by
    rw [frameCovered_length]; omega
  rw [frameBytes_length, frameBytes_eq, slice_cons_succ, slice_append_left hlen]

/-- The checksum lies at offset `N−3`. -/
theorem memRead_frameBytes_checksum :
    memRead (frameBytes flag token command count body) ((frameBytes flag token command count body).length - 3) 2
      = (crc16 (frameCovered flag token command count body)).toNat := by
  have hoff : 16 + body.length - 3 = (frameCovered flag token command count body).length + 1 := by
    rw [frameCovered_length]; omega
  rw [frameBytes_length, hoff, frameBytes_eq, memRead, slice_cons_succ, slice_append_right _ _ _ _ rfl,
    List.take_left' (leBytes_length 2 _), leValue_leBytes_toNat rfl]

theorem getElem?_frameBytes_first : (frameBytes flag token command count body)[0]? = some stx := by
  rw [frameBytes_eq]; rfl

theorem getElem?_frameBytes_last :
    (frameBytes flag token command count body)[(frameBytes flag token command count body).length - 1]? = some etx := by
  rw [← List.getLast?_eq_getElem?, frameBytes, List.getLast?_concat]

/-- The header values and the fields, each behind the ones before it. -/
theorem slice_frameBytes_header :
    slice (frameBytes flag token command count body) 1 2 = leBytes 2 flag.toNat
    ∧ slice (frameBytes flag token command count body) 3 4 = leBytes 4 token.toNat
    ∧ slice (frameBytes flag token command count body) 7 2 = leBytes 2 (16 + body.length)
    ∧ slice (frameBytes flag token command count body) 9 2 = leBytes 2 count
    ∧ slice (frameBytes flag token command count body) 11 2 = leBytes 2 command.toNat
    ∧ slice (frameBytes flag token command count body) 13 body.length = body := by
  simp [frameBytes_eq, frameCovered, slice_cons_succ, slice_append_of_length_le, slice_append_left]

/-- The fields lie at offsets `13 .. N−4`. -/
theorem fieldArea_frameBytes : fieldArea (frameBytes flag token command count body) = body := by
  obtain ⟨-, -, -, -, -, hbody⟩ := slice_frameBytes_header flag token command count body
  rw [fieldArea, frameBytes_length, Nat.add_sub_cancel_left, hbody]

/-- The header reads back as the numbers it was built from, where they fit their bytes. -/
theorem memRead_frameBytes_header (hcount : count ≤ 65535) (hlength : 16 + body.length ≤ 65535) :
    memRead (frameBytes flag token command count body) 1 2 = flag.toNat
    ∧ memRead (frameBytes flag token command count body) 3 4 = token.toNat
    ∧ memRead (frameBytes flag token command count body) 7 2 = 16 + body.length
    ∧ memRead (frameBytes flag token command count body) 9 2 = count
    ∧ memRead (frameBytes flag token command count body) 11 2 = command.toNat := by
  obtain ⟨hflag, htoken, hlen, hcnt, hcommand, -⟩ := slice_frameBytes_header flag token command count body
  simp only [memRead, hflag, htoken, hlen, hcnt, hcommand]
  exact ⟨leValue_leBytes_toNat rfl flag, leValue_leBytes_toNat rfl token, leValue_leBytes_two hlength,
    leValue_leBytes_two hcount, leValue_leBytes_toNat rfl command⟩

/-- The Message of a built frame holds the values it was built from (43_frame.md R123). -/
theorem messageOf_frameBytes (hcount : count ≤ 65535) (hlength : 16 + body.length ≤ 65535) (fields : List Field) :
    messageOf (frameBytes flag token command count body) fields
      = { flag := flag, token := token, command := command, length := BitVec.ofNat 16 (16 + body.length),
          fields := fields, checksum := crc16 (frameCovered flag token command count body) } := by
  obtain ⟨hflag, htoken, hlen, -, hcommand⟩ := memRead_frameBytes_header flag token command count body hcount hlength
  simp only [messageOf, hflag, htoken, hlen, hcommand, memRead_frameBytes_checksum, BitVec.ofNat_toNat,
    BitVec.setWidth_eq]

/-- A built frame passes FRDEC's first checks, so its fields decide (43_frame.md R121). -/
theorem frameDec_frameBytes {c : Config} {fields : List Field} (hdec : fieldsDec c body.length 13 body = .ok fields) :
    frameDec c (frameBytes flag token command count body)
      = .ok (messageOf (frameBytes flag token command count body) fields) := by
  have hlen : ¬(frameBytes flag token command count body).length < 16 := by rw [frameBytes_length]; omega
  rw [frameDec, if_neg hlen, if_neg (not_not.mpr (getElem?_frameBytes_first ..)),
    if_neg (not_not.mpr (getElem?_frameBytes_last ..)), fieldArea_frameBytes, hdec]

end Layout

end Sys2Proof.Machine
end

section
/-! PROOFS. Lists of fields (43_frame.md R120, R121): their encoding part by part, the first RangeError, and the field loop of
FRDEC on an encoded list. -/

namespace Sys2Proof.Machine

theorem fieldsEnc_cons {c : Config} {f : Field} {fs : List Field} {b rest : List Byte} (hf : fieldEnc c f = .ok b)
    (hfs : fieldsEnc c fs = .ok rest) : fieldsEnc c (f :: fs) = .ok (b ++ rest) := by
  rw [fieldsEnc, hf, hfs]

/-- The encoding of well-formed Fields is what their encoders answer, one behind the other (43_frame.md R120). -/
theorem fieldsEnc_eq_flatten {s : State} {fs : List Field} (hfs : ∀ f ∈ fs, f.wf = true) :
    ∃ parts : List (List Byte), fieldsEnc s.cfg fs = .ok parts.flatten
      ∧ List.Forall₂ (fun f b => exec (encoderOf f) s = .next { s with result := some (.bytes b) }) fs parts := by
  induction fs with
  | nil => exact ⟨[], rfl, .nil⟩
  | cons f fs ih =>
    obtain ⟨hf, hfs⟩ := List.forall_mem_cons.1 hfs
    obtain ⟨b, hb⟩ := fieldEnc_of_wf s.cfg hf
    obtain ⟨parts, henc, hparts⟩ := ih hfs
    exact ⟨b :: parts, fieldsEnc_cons hb henc, .cons (exec_encoderOf hf hb) hparts⟩

/-- Behind well-formed Fields, a PackedDecimal out of the domain raises, whatever follows it. -/
theorem fieldsEnc_rangeError (c : Config) {fs : List Field} (hfs : ∀ f ∈ fs, f.wf = true) {v : Int}
    (hv : inPdDomain v = false) (after : List Field) :
    fieldsEnc c (fs ++ .packed v :: after) = .error (.rangeError v) := by
  induction fs with
  | nil =>
    have hdomain : ¬(-500000000000 ≤ v ∧ v ≤ 499999999999) := by rw [← inPdDomain_iff, hv]; decide
    rw [List.nil_append, fieldsEnc, fieldEnc, fencPacked_out_of_domain hdomain]
  | cons f fs ih =>
    obtain ⟨hf, hfs⟩ := List.forall_mem_cons.1 hfs
    obtain ⟨b, hb⟩ := fieldEnc_of_wf c hf
    rw [List.cons_append, fieldsEnc, hb, ih hfs]

/-- The field loop of FRDEC reads an encoded list back, at any offset and with any bound that reaches its end. -/
theorem fieldsDec_of_fieldsEnc {c : Config} (hc : c.wf = true) {fs : List Field} (hfs : ∀ f ∈ fs, f.wf = true)
    {body : List Byte} (henc : fieldsEnc c fs = .ok body) {bound : Nat} (hbound : body.length ≤ bound) (pos : Nat) :
    fieldsDec c bound pos body = .ok fs := by
  induction fs generalizing body bound pos with
  | nil => cases henc; simp only [fieldsDec]
  | cons f fs ih =>
    obtain ⟨hf, hfs⟩ := List.forall_mem_cons.1 hfs
    obtain ⟨tag, w, htag, hdec⟩ := fieldDec_fieldEnc hc hf
    obtain ⟨rest, hrest⟩ := fieldsEnc_of_wf c hfs
    cases (fieldsEnc_cons htag hrest).symm.trans henc
    obtain _ | bound := bound
    · exact absurd hbound (Nat.not_succ_le_zero _)
    · have hle : rest.length ≤ bound := by
        rw [List.cons_append, List.length_cons, List.length_append] at hbound; omega
      simp only [List.cons_append, fieldsDec, hdec, ih hfs hrest hle]

/-- Every field takes a byte at least, so the count fits where the length does (45_cross_family.md R163). -/
theorem length_le_frameLength (fs : List Field) : fs.length ≤ frameLength fs := by
  have hone : ∀ n ∈ fs.map Field.encodedLength, 1 ≤ n :=
    List.forall_mem_map.mpr fun f _ => by cases f <;> simp only [Field.encodedLength] <;> omega
  have hsum := List.length_le_sum_of_one_le _ hone
  rw [List.length_map] at hsum
  exact hsum.trans (Nat.le_add_left _ 16)

end Sys2Proof.Machine
end

section
/-! PROOFS. FRENC, FRDEC and FRVFY (43_frame.md R120 to R123): their replies, and that they agree on a built frame. -/

namespace Sys2Proof.Machine

theorem all_takesField_iff (fs : List Field) : fs.all takesField = true ↔ ∀ f ∈ fs, f.admitted = true := by
  simp only [List.all_eq_true, takesField_eq_admitted]

section Frenc

variable {fs : List Field} (flag : U16) (token : U32) (command : U16) {s : State}

/-- FRENC answers with the frame around the encoded Fields, where they are well-formed and the frame fits. -/
theorem exec_frenc_of_wf (hfs : ∀ f ∈ fs, f.wf = true) (hfits : frameLength fs ≤ 65535) {body : List Byte}
    (henc : fieldsEnc s.cfg fs = .ok body) :
    exec (.frenc flag token command fs) s
      = .next { s with result := some (.bytes (frameBytes flag token command fs.length body)) } := by
  obtain ⟨body', henc', hbuilt⟩ := frameEnc_of_wf s.cfg flag token command hfs hfits
  cases henc.symm.trans henc'
  rw [exec, execFrenc, hbuilt]; rfl

theorem exec_frenc_of_error (hfs : ∀ f ∈ fs, f.admitted = true) {e : CodecError} (henc : fieldsEnc s.cfg fs = .error e) :
    exec (.frenc flag token command fs) s = .next { s with result := some (.error e) } := by
  rw [exec, execFrenc, frameEnc, if_pos ((all_takesField_iff fs).2 hfs), henc]; rfl

theorem exec_frenc_of_too_long (hfs : ∀ f ∈ fs, f.wf = true) (hlong : frameLength fs > 65535) :
    exec (.frenc flag token command fs) s = .refused .frameTooLong := by
  obtain ⟨body, henc⟩ := fieldsEnc_of_wf s.cfg hfs
  have hfits : ¬lengthFits (16 + body.length) = true := by
    rw [fieldsEnc_length henc, lengthFits, decide_eq_true_iff]; omega
  have hadmitted : ∀ f ∈ fs, f.admitted = true := fun f hf => Field.admitted_of_wf (hfs f hf)
  rw [exec, execFrenc, frameEnc, if_pos ((all_takesField_iff fs).2 hadmitted), henc]
  simp only [if_neg hfits]

theorem exec_frenc_of_not_admitted (hfs : ∃ f ∈ fs, f.admitted = false) :
    exec (.frenc flag token command fs) s = .refused .textNotAscii := by
  obtain ⟨f, hf, hnot⟩ := hfs
  have hall : ¬fs.all takesField = true := fun h =>
    Bool.false_ne_true (hnot.symm.trans ((all_takesField_iff fs).1 h f hf))
  rw [exec, execFrenc, frameEnc, if_neg hall]

end Frenc

/-- FRDEC answers with the Message `frameDec` gives. -/
theorem exec_frdec_of_frameDec {b : List Byte} {m : Message} {s : State} (h : frameDec s.cfg b = .ok m) :
    exec (.frdec b) s = .next { s with result := some (.message m) } := by
  rw [exec, execFrdec, h]; rfl

/-- The transmitted checksum is the read at `N−3`, which fits its 16 bits. -/
theorem transmitted_toNat (b : List Byte) : (transmitted b).toNat = memRead b (b.length - 3) 2 := by
  rw [transmitted, BitVec.toNat_ofNat, Nat.mod_eq_of_lt (show memRead b (b.length - 3) 2 < 2 ^ 16 from memRead_lt b _ 2)]

theorem verifiable_iff (b : List Byte) : verifiable b = true ↔ 16 ≤ b.length := decide_eq_true_iff

theorem crcOk_iff (b : List Byte) : crcOk b = true ↔ recomputed b = transmitted b := decide_eq_true_iff

section Frvfy

variable {b : List Byte} (s : State)

theorem exec_frvfy_of_short (hshort : b.length < 16) : exec (.frvfy b) s = .refused .shortVerify := by
  rw [exec, execFrvfy, if_neg ((verifiable_iff b).not.2 (Nat.not_le.2 hshort))]

theorem exec_frvfy_of_crcOk (hlen : 16 ≤ b.length) (hcrc : crcOk b = true) :
    exec (.frvfy b) s = .next { s with result := some .ok } := by
  rw [exec, execFrvfy, if_pos ((verifiable_iff b).2 hlen), if_pos hcrc]; rfl

theorem exec_frvfy_of_mismatch (hlen : 16 ≤ b.length) (hcrc : recomputed b ≠ transmitted b) :
    exec (.frvfy b) s
      = .next { s with result := some (.error (.checksumMismatch (recomputed b) (transmitted b))) } := by
  rw [exec, execFrvfy, if_pos ((verifiable_iff b).2 hlen), if_neg ((crcOk_iff b).not.2 hcrc)]; rfl

end Frvfy

/-- `CrcOk` holds of a built frame (43_frame.md R123). -/
theorem crcOk_frameBytes (flag : U16) (token : U32) (command : U16) (count : Nat) (body : List Byte) :
    crcOk (frameBytes flag token command count body) = true := by
  rw [crcOk_iff, recomputed, transmitted, slice_frameBytes_covered, memRead_frameBytes_checksum, BitVec.ofNat_toNat,
    BitVec.setWidth_eq]

end Sys2Proof.Machine

namespace Sys2Proof
open Machine

/-- Settles O36: FRDEC reads every part of the frame where FRENC put it, the fields by the loop's own inverse, and the
checksum FRVFY recomputes is the one FRENC stored. -/
theorem frdecInvertsFrenc : Obligations.FrdecInvertsFrenc := by
  intro flag token command fs s hcfg hfs hfits
  obtain ⟨body, henc⟩ := fieldsEnc_of_wf s.cfg hfs
  have hlength : 16 + body.length = frameLength fs := fieldsEnc_length henc
  have hmessage := messageOf_frameBytes flag token command fs.length body
    ((length_le_frameLength fs).trans hfits) (hlength.trans_le hfits) fs
  refine ⟨_, exec_frenc_of_wf flag token command hfs hfits henc, ?_,
    exec_frvfy_of_crcOk s (by rw [frameBytes_length]; omega) (crcOk_frameBytes ..)⟩
  have hfields := fieldsDec_of_fieldsEnc hcfg hfs henc le_rfl 13
  rw [exec_frdec_of_frameDec (frameDec_frameBytes flag token command fs.length body hfields), hmessage,
    slice_frameBytes_covered, hlength]

/-- Settles O34: the layout of the built frame, and the one condition under which each other way to end is taken. -/
theorem frencBuildsTheFrame : Obligations.FrencBuildsTheFrame := by
  intro flag token command fs before after v s
  refine ⟨decode_command_of_eq_hostWord (op := .frenc) rfl s.cfg s.esc _, fun hfs hfits => ?_,
    fun hbefore hv hafter _ => ?_, fun hfs hlong => exec_frenc_of_too_long flag token command hfs hlong,
    fun htext _ _ => exec_frenc_of_not_admitted flag token command htext⟩
  · obtain ⟨parts, henc, hparts⟩ := fieldsEnc_eq_flatten hfs
    have hlength : 16 + parts.flatten.length = frameLength fs := fieldsEnc_length henc
    obtain ⟨hflag, htoken, hlen, hcount, hcommand⟩ := memRead_frameBytes_header flag token command fs.length parts.flatten
      ((length_le_frameLength fs).trans hfits) (hlength.trans_le hfits)
    refine ⟨_, exec_frenc_of_wf flag token command hfs hfits henc, (frameBytes_length ..).trans hlength,
      getElem?_frameBytes_first .., hflag, htoken, hlen.trans hlength, hcount, hcommand,
      ⟨parts, (fieldArea_frameBytes ..).symm, hparts⟩, ?_, getElem?_frameBytes_last ..⟩
    rw [memRead_frameBytes_checksum, slice_frameBytes_covered]
  · rw [List.append_assoc, List.singleton_append]
    refine exec_frenc_of_error flag token command ?_ (fieldsEnc_rangeError s.cfg hbefore hv after)
    exact List.forall_mem_append.2 ⟨fun f hf => Field.admitted_of_wf (hbefore f hf), List.forall_mem_cons.2 ⟨rfl, hafter⟩⟩

/-- Settles O39: `crcOk` compares the recomputed checksum with the transmitted one, a word of the same two bytes. -/
theorem frvfyComparesTheChecksum : Obligations.FrvfyComparesTheChecksum := by
  intro b s
  refine ⟨decode_command_of_eq_hostWord (op := .frvfy) rfl s.cfg s.esc _, fun hlen hcrc => ?_,
    fun hlen c hc hne => ?_, fun hshort => exec_frvfy_of_short s hshort⟩
  · have heq : recomputed b = transmitted b := BitVec.eq_of_toNat_eq (hcrc.trans (transmitted_toNat b).symm)
    exact exec_frvfy_of_crcOk s hlen ((crcOk_iff b).2 heq)
  · obtain rfl : c = transmitted b := BitVec.eq_of_toNat_eq (hc.trans (transmitted_toNat b).symm)
    exact exec_frvfy_of_mismatch s hlen hne

end Sys2Proof
end

section
/-! PROOFS. ESC (44_stream_framer.md R140): the units by offset, and how many bytes they are. -/

namespace Sys2Proof.Machine

/-- ESC answers with the escaped bytes and leaves everything else. -/
theorem exec_esc (bytes : List Byte) (s : State) :
    exec (.esc bytes) s = .next { s with result := some (.bytes (escape bytes)) } := rfl

/-- The unit of the first byte, by its offset. -/
theorem escUnitAt_cons_zero (b : Byte) (bytes : List Byte) :
    escUnitAt (b :: bytes) 0 = escUnit true bytes.isEmpty b := by
  cases bytes <;> simp [escUnitAt, escUnit]

/-- The unit of the second byte, which is not the first. -/
theorem escUnitAt_cons_cons_one (first b : Byte) (bytes : List Byte) :
    escUnitAt (first :: b :: bytes) 1 = escUnit false bytes.isEmpty b := by
  cases bytes <;> simp [escUnitAt, escUnit]

/-- Behind the first two bytes a unit does not depend on which byte came first. -/
theorem escUnitAt_cons_cons_add_two (first b : Byte) (bytes : List Byte) (i : Nat) :
    escUnitAt (first :: b :: bytes) (i + 2) = escUnitAt (b :: bytes) (i + 1) := by
  simp [escUnitAt]

/-- The units of the bytes behind the first one. -/
theorem flatMap_escUnitAt_cons (first : Byte) (bytes : List Byte) :
    (List.range bytes.length).flatMap (fun i => escUnitAt (first :: bytes) (i + 1)) = escFrom false bytes := by
  induction bytes generalizing first with
  | nil => rfl
  | cons b bytes ih =>
    simp only [List.length_cons, List.range_succ_eq_map, List.flatMap_cons, List.flatMap_map, Nat.zero_add,
      escUnitAt_cons_cons_one, Nat.succ_eq_add_one, Nat.add_assoc, Nat.reduceAdd, escUnitAt_cons_cons_add_two, ih, escFrom]

/-- `Esc(s)` is the units by offset, as R140 writes it. -/
theorem escape_eq_escByOffset (bytes : List Byte) : escape bytes = escByOffset bytes := by
  cases bytes with
  | nil => rfl
  | cons b bytes =>
    rw [escape, escFrom, escByOffset, List.length_cons, List.range_succ_eq_map, List.flatMap_cons, List.flatMap_map,
      escUnitAt_cons_zero]
    exact congrArg _ (flatMap_escUnitAt_cons b bytes).symm

/-- A unit is its byte and one DLE more for each reason to escape it, of which at most one applies. -/
theorem escUnit_length (first last : Bool) (b : Byte) :
    (escUnit first last b).length = 1 + (if b = dle then 1 else 0) + (if first = true ∧ b = stx then 1 else 0)
      + (if last = true ∧ b = etx then 1 else 0) := by
  have hdle : dle ≠ stx ∧ dle ≠ etx := by decide
  have hstx : stx ≠ etx := by decide
  obtain rfl | hb := eq_or_ne b dle
  · simp [escUnit, hdle]
  obtain rfl | hb' := eq_or_ne b stx
  · cases first <;> simp [escUnit, hb, hstx]
  · simp only [escUnit, hb, hb', if_false, and_false, decide_false, Bool.and_false, Bool.false_eq_true, Bool.and_eq_true,
      decide_eq_true_eq]
    split_ifs <;> rfl

/-- The length formula of R140, for bytes that are or are not the beginning of the whole. -/
theorem escFrom_length (first : Bool) (bytes : List Byte) :
    (escFrom first bytes).length = bytes.length + bytes.count dle
      + (if first = true ∧ bytes.head? = some stx then 1 else 0) + (if bytes.getLast? = some etx then 1 else 0) := by
  induction bytes generalizing first with
  | nil => simp [escFrom]
  | cons b bytes ih =>
    rw [escFrom, List.length_append, escUnit_length, ih, List.length_cons, List.count_cons]
    cases bytes with
    | nil => simp
    | cons b' bytes => simp; omega

end Sys2Proof.Machine

namespace Sys2Proof
open Machine

/-- Settles O40: `escape` gives the units by offset, and `escFrom_length` their length. -/
theorem escConcatenatesTheUnits : Obligations.EscConcatenatesTheUnits := by
  intro bytes s
  refine ⟨decode_command_of_eq_hostWord (op := .esc) rfl s.cfg s.esc _, ?_, ?_⟩
  · rw [exec_esc, escape_eq_escByOffset]
  · rw [← escape_eq_escByOffset, escape, escFrom_length, List.head?_eq_getElem?, List.getLast?_eq_getElem?]
    simp only [true_and]
    rfl

end Sys2Proof
end

section
/-! PROOFS. Deliveries (44_stream_framer.md R153, R155): a run of deliveries is the run of its bytes. -/

namespace Sys2Proof.Machine

/-- A received byte leaves the result port empty. -/
@[simp] theorem noReply_receive (b : Byte) (s : State) : (receive b s).noReply = receive b s := by
  have hresult : (receive b s).result = none := (receive_received b s).result
  rw [State.noReply, ← hresult]

/-- Bytes received with the result port empty leave it empty. -/
@[simp] theorem noReply_receiveAll (bytes : List Byte) (s : State) :
    (receiveAll bytes s.noReply).noReply = receiveAll bytes s.noReply := by
  induction bytes generalizing s with
  | nil => rfl
  | cons b bytes ih => rw [receiveAll_cons, ← noReply_receive, ih]

/-- A run of deliveries, taken to the end and one idle step beyond, receives their bytes in order. -/
theorem steps_deliveries (chunks : List (List Byte)) (s : State) :
    steps (chunks.length + chunks.flatten.length + 1) { s with pending := chunks.map .delivery }
      = .next { receiveAll chunks.flatten s.noReply with pending := [] } := by
  induction chunks generalizing s with
  | nil => rfl
  | cons chunk chunks ih =>
    have hcount : (chunk :: chunks).length + (chunk :: chunks).flatten.length + 1
        = (1 + chunk.length) + (chunks.length + chunks.flatten.length + 1) := by simp; omega
    rw [hcount, List.map_cons, steps_add _ _ _ _ (steps_delivery chunk _ s), ih, noReply_receiveAll, List.flatten_cons,
      receiveAll_append]

end Sys2Proof.Machine

namespace Sys2Proof
open Machine

/-- Settles O53: both runs receive the same bytes, the second being the run of a single delivery. -/
theorem chunkingNeverMatters : Obligations.ChunkingNeverMatters := by
  intro chunks s
  have hsingle := steps_deliveries [chunks.flatten] s
  rw [List.flatten_singleton] at hsingle
  rw [steps_deliveries]
  exact hsingle.symm

end Sys2Proof
end

section
/-! PROOFS. One received byte, by mode and `esc` (44_stream_framer.md R144 to R152), and the class rows as that byte. -/

namespace Sys2Proof.Machine

section ClassRows

variable {b : Byte} {s t : State}

theorem exec_rxb (h : receive b s = t) : exec (.rxb b) s = .next t := congrArg _ h

/-- A class row answers with what RXB makes of its byte. -/
theorem receiveAs_of_receive {e : Bool} {c : RxClass} (hesc : s.esc = e) (hc : classify e b = c) (h : receive b s = t) :
    receiveAs c b s = .next t := by
  rw [receiveAs_of_class (hesc ▸ hc), h]

theorem exec_rxEsc (hesc : s.esc = false) (h : receive dle s = t) : exec .rxEsc s = .next t :=
  receiveAs_of_receive hesc classify_false_dle h

theorem exec_rxData (hesc : s.esc = false) (hb : b ≠ 0x10) (h : receive b s = t) : exec (.rxData b) s = .next t :=
  receiveAs_of_receive hesc (classify_data hb) h

theorem exec_rxStart (hesc : s.esc = true) (h : receive stx s = t) : exec .rxStart s = .next t :=
  receiveAs_of_receive hesc classify_true_stx h

theorem exec_rxEnd (hesc : s.esc = true) (h : receive etx s = t) : exec .rxEnd s = .next t :=
  receiveAs_of_receive hesc classify_true_etx h

theorem exec_rxAbort (hesc : s.esc = true) (h : receive abt s = t) : exec .rxAbort s = .next t :=
  receiveAs_of_receive hesc classify_true_abt h

theorem exec_rxLitDle (hesc : s.esc = true) (h : receive dle s = t) : exec .rxLitDle s = .next t :=
  receiveAs_of_receive hesc classify_true_dle h

theorem exec_rxOther (hesc : s.esc = true) (hb : b ∉ [(0x02 : Byte), 0x03, 0x08, 0x10]) (h : receive b s = t) :
    exec (.rxOther b) s = .next t :=
  receiveAs_of_receive hesc (classify_other hb) h

end ClassRows

section Append

variable {s : State} (x : Byte)

theorem ruleData_of_inMessage (hmode : s.mode = .inMessage) : ruleData x s = s.append x := by
  rw [ruleData, hmode]

theorem ruleLitDle_of_inMessage (hmode : s.mode = .inMessage) :
    ruleLitDle s = State.append { s with esc := false } dle := by
  rw [ruleLitDle, hmode]

/-- `Append` below the capacity (R152). -/
theorem append_of_room (hroom : s.cfg.rxBufMax ≠ some s.buf.length) : s.append x = { s with buf := s.buf ++ [x] } :=
  if_neg (mt s.bufFull_iff.1 hroom)

/-- `Append` at capacity (R152). -/
theorem append_of_full (hfull : s.cfg.rxBufMax = some s.buf.length) : s.append x = { s with rxFault := .rxOverflow } :=
  if_pos (s.bufFull_iff.2 hfull)

end Append

section Receive

variable {b : Byte} {s : State} (hf : s.rxFault = .none)

include hf

/-- A byte follows the rule of its class. -/
theorem receive_of_class {e : Bool} {c : RxClass} (hesc : s.esc = e) (hc : classify e b = c) :
    receive b s = ruleOf c b s.noReply := by
  rw [receive_running hf, hesc, hc]

/-- A DLE is remembered, in both modes (R144, R146). -/
theorem receive_dle (hesc : s.esc = false) : receive dle s = { s with esc := true, result := none } :=
  receive_of_class hf hesc classify_false_dle

section Idle

variable (hmode : s.mode = .idle)

include hmode

/-- R144: a byte outside a frame is discarded. -/
theorem receive_idle_data (hesc : s.esc = false) (hb : b ≠ 0x10) : receive b s = { s with result := none } := by
  rw [receive_of_class hf hesc (classify_data hb), ruleOf]
  simp [ruleData, State.noReply, hmode]

/-- R145: a frame begins. -/
theorem receive_idle_start (hesc : s.esc = true) :
    receive stx s = { s with esc := false, buf := [stx], mode := .inMessage, result := none } := by
  rw [receive_of_class hf hesc classify_true_stx, ruleOf]
  simp [ruleStart, State.noReply, hmode]

/-- R145: any other pair outside a frame is discarded, whatever the class of its second byte. -/
theorem receive_idle_pair (hesc : s.esc = true) (hb : b ≠ stx) : receive b s = { s with esc := false, result := none } := by
  rw [receive_running hf, hesc, classify, if_pos rfl, if_neg hb]
  split_ifs
  · simp [ruleOf, ruleEnd, State.noReply, hmode]
  · simp [ruleOf, ruleAbort, State.noReply, hmode]
  · simp [ruleOf, ruleLitDle, State.noReply, hmode]
  · simp [ruleOf, ruleOther, State.noReply, hmode]

end Idle

section InMessage

variable (hmode : s.mode = .inMessage)

include hmode

/-- R146: a byte inside a frame is buffered. -/
theorem receive_message_data (hesc : s.esc = false) (hb : b ≠ 0x10) (hroom : s.cfg.rxBufMax ≠ some s.buf.length) :
    receive b s = { s with buf := s.buf ++ [b], result := none } := by
  rw [receive_of_class hf hesc (classify_data hb), ruleOf, ruleData_of_inMessage b (s := s.noReply) hmode]
  exact append_of_room b hroom

/-- R146 with R152: at capacity a byte inside a frame is the sticky fault. -/
theorem receive_message_data_full (hesc : s.esc = false) (hb : b ≠ 0x10) (hfull : s.cfg.rxBufMax = some s.buf.length) :
    receive b s = { s with rxFault := .rxOverflow, result := none } := by
  rw [receive_of_class hf hesc (classify_data hb), ruleOf, ruleData_of_inMessage b (s := s.noReply) hmode]
  exact append_of_full b hfull

variable (hesc : s.esc = true)

include hesc

/-- R147: a doubled DLE is one literal DLE. -/
theorem receive_message_litDle (hroom : s.cfg.rxBufMax ≠ some s.buf.length) :
    receive dle s = { s with esc := false, buf := s.buf ++ [dle], result := none } := by
  rw [receive_of_class hf hesc classify_true_dle, ruleOf, ruleLitDle_of_inMessage (s := s.noReply) hmode]
  exact append_of_room dle hroom

/-- R147 with R152. -/
theorem receive_message_litDle_full (hfull : s.cfg.rxBufMax = some s.buf.length) :
    receive dle s = { s with esc := false, rxFault := .rxOverflow, result := none } := by
  rw [receive_of_class hf hesc classify_true_dle, ruleOf, ruleLitDle_of_inMessage (s := s.noReply) hmode]
  exact append_of_full dle hfull

/-- R148: the frame begins again, what was buffered is dropped. -/
theorem receive_message_start : receive stx s = { s with esc := false, buf := [stx], result := none } := by
  rw [receive_of_class hf hesc classify_true_stx, ruleOf]
  simp [ruleStart, State.noReply, hmode]

/-- R149: the frame is complete. -/
theorem receive_message_end (hroom : s.cfg.rxBufMax ≠ some s.buf.length) :
    receive etx s = { s with
      esc := false, buf := [], mode := .idle, result := none,
      events := s.events ++ [frameEvent s.cfg (s.buf ++ [etx])] } := by
  rw [receive_of_class hf hesc classify_true_etx, ruleOf]
  simp [ruleEnd, State.bufFull, State.emit, State.noReply, hmode, hroom]

/-- R149 with R152. -/
theorem receive_message_end_full (hfull : s.cfg.rxBufMax = some s.buf.length) :
    receive etx s = { s with esc := false, rxFault := .rxOverflow, result := none } := by
  rw [receive_of_class hf hesc classify_true_etx, ruleOf]
  simp [ruleEnd, State.bufFull, State.noReply, hmode, hfull]

/-- R150: the incomplete frame goes to the diagnostic port. -/
theorem receive_message_abort :
    receive abt s = { s with
      esc := false, buf := [], mode := .idle, result := none, events := s.events ++ [.incomplete s.buf] } := by
  rw [receive_of_class hf hesc classify_true_abt, ruleOf]
  simp [ruleAbort, State.emit, State.noReply, hmode]

/-- R151: any other pair inside a frame is the sticky fault. -/
theorem receive_message_other (hb : b ∉ [(0x02 : Byte), 0x03, 0x08, 0x10]) :
    receive b s = { s with esc := false, rxFault := .escapeViolation, result := none } := by
  rw [receive_of_class hf hesc (classify_other hb), ruleOf]
  simp [ruleOther, State.noReply, hmode]

end InMessage

end Receive

/-! ### The event of a completed frame -/

theorem exec_frdec (bytes : List Byte) (s : State) :
    exec (.frdec bytes) s = s.finish ((frameDec s.cfg bytes).map .message) := rfl

/-- FRDEC answers with the Message `frameDec` gives, and with no other. -/
theorem exec_frdec_eq_message_iff {bytes : List Byte} {m : Message} {s : State} :
    exec (.frdec bytes) s = .next { s with result := some (.message m) } ↔ frameDec s.cfg bytes = .ok m := by
  rw [exec_frdec]
  cases frameDec s.cfg bytes <;> simp [Except.map, State.finish, State.answer, State.raise]

/-- FRDEC raises the error `frameDec` gives, and no other. -/
theorem exec_frdec_eq_error_iff {bytes : List Byte} {e : CodecError} {s : State} :
    exec (.frdec bytes) s = .next { s with result := some (.error e) } ↔ frameDec s.cfg bytes = .error e := by
  rw [exec_frdec]
  cases frameDec s.cfg bytes <;> simp [Except.map, State.finish, State.answer, State.raise]

theorem frameEvent_of_ok {c : Config} {frame : List Byte} {m : Message} (h : frameDec c frame = .ok m) :
    frameEvent c frame = .message m (crcOk frame) := by
  rw [frameEvent, h]

theorem frameEvent_of_error {c : Config} {frame : List Byte} {e : CodecError} (h : frameDec c frame = .error e) :
    frameEvent c frame = .decodeError e frame := by
  rw [frameEvent, h]

end Sys2Proof.Machine

namespace Sys2Proof
open Machine

/-- Settles O44: a DLE is remembered, any other byte discarded. -/
theorem rxbInIdle : Obligations.RxbInIdle := by
  intro b s hf hmode hesc
  have hdle := receive_dle hf hesc
  refine ⟨exec_rxb hdle, exec_rxEsc hesc hdle, fun hb => ?_⟩
  have hdata := receive_idle_data hf hmode hesc hb
  exact ⟨exec_rxb hdata, exec_rxData hesc hb hdata⟩

/-- Settles O45: the start sequence enters a frame, and `receive_idle_pair` covers every other byte and row. -/
theorem rxbInIdleAfterDle : Obligations.RxbInIdleAfterDle := by
  intro b s hf hmode hesc
  have hstart := receive_idle_start hf hmode hesc
  have hpair {x : Byte} (hx : x ≠ stx) := receive_idle_pair hf hmode hesc hx
  exact ⟨exec_rxb hstart, exec_rxStart hesc hstart, fun hb => exec_rxb (hpair hb), exec_rxEnd hesc (hpair (by decide)),
    exec_rxAbort hesc (hpair (by decide)), exec_rxLitDle hesc (hpair (by decide)),
    fun hb => exec_rxOther hesc hb (hpair (List.ne_of_not_mem_cons hb))⟩

/-- Settles O46: a DLE is remembered, any other byte buffered, or turned into the sticky fault by a full buffer. -/
theorem rxbInMessage : Obligations.RxbInMessage := by
  intro b s hf hmode hesc
  have hdle := receive_dle hf hesc
  refine ⟨exec_rxb hdle, exec_rxEsc hesc hdle, fun hb hroom => ?_, fun hb hfull => ?_⟩
  · have hdata := receive_message_data hf hmode hesc hb hroom
    exact ⟨exec_rxb hdata, exec_rxData hesc hb hdata⟩
  · have hdata := receive_message_data_full hf hmode hesc hb hfull
    exact ⟨exec_rxb hdata, exec_rxData hesc hb hdata⟩

/-- Settles O47: a literal DLE below and at capacity, and a start sequence, whatever the buffer holds. -/
theorem rxbLiteralDleAndRestart : Obligations.RxbLiteralDleAndRestart := by
  intro s hf hmode hesc
  have hstart := receive_message_start hf hmode hesc
  refine ⟨fun hroom => ?_, fun hfull => ?_, exec_rxb hstart, exec_rxStart hesc hstart⟩
  · have hdle := receive_message_litDle hf hmode hesc hroom
    exact ⟨exec_rxb hdle, exec_rxLitDle hesc hdle⟩
  · have hdle := receive_message_litDle_full hf hmode hesc hfull
    exact ⟨exec_rxb hdle, exec_rxLitDle hesc hdle⟩

/-- Settles O48: the one event is `frameEvent`, and FRDEC's answer to the same bytes says which it is. -/
theorem rxbEndOfFrame : Obligations.RxbEndOfFrame := by
  intro s hf hmode hesc
  refine ⟨exec_rxEnd hesc rfl, fun hroom => ⟨fun m hm => ?_, fun e he => ?_, ?_⟩,
    fun hfull => exec_rxb (receive_message_end_full hf hmode hesc hfull)⟩
  · have hevent := frameEvent_of_ok (exec_frdec_eq_message_iff.1 hm)
    exact exec_rxb (hevent ▸ receive_message_end hf hmode hesc hroom)
  · have hevent := frameEvent_of_error (exec_frdec_eq_error_iff.1 he)
    exact exec_rxb (hevent ▸ receive_message_end hf hmode hesc hroom)
  · cases hdec : frameDec s.cfg (s.buf ++ [0x03]) with
    | ok m => exact .inl ⟨m, exec_frdec_eq_message_iff.2 hdec⟩
    | error e => exact .inr ⟨e, exec_frdec_eq_error_iff.2 hdec⟩

/-- Settles O49: the one event is about the bytes buffered so far. -/
theorem rxbAbortInsideAFrame : Obligations.RxbAbortInsideAFrame := by
  intro s hf hmode hesc
  exact ⟨exec_rxb (receive_message_abort hf hmode hesc), exec_rxAbort hesc rfl⟩

/-- Settles O50: the bytes left over by the four control values are of one class, whose rule sets the fault. -/
theorem rxbEscapeViolation : Obligations.RxbEscapeViolation := by
  intro b s hf hmode hesc hb
  have hother := receive_message_other hf hmode hesc hb
  exact ⟨exec_rxb hother, exec_rxOther hesc hb hother⟩

end Sys2Proof
end

section
/-! PROOFS. The wire units (30_encoding.md R67): a pair on the RX byte port takes three steps and receives its two bytes. -/

namespace Sys2Proof.Machine

/-- Whatever two bytes a pair holds, it presents them. -/
theorem exec_decodeWire (first second : Byte) (s : State) :
    exec (decodeWire first second) s = .next (s.present [first, second]) := by
  unfold decodeWire
  split_ifs with hfirst hstart hend habort hlit
  · rw [hfirst, hstart]; rfl
  · rw [hfirst, hend]; rfl
  · rw [hfirst, habort]; rfl
  · rw [hfirst, hlit]; rfl
  · rfl
  · rfl

/-- One step presents the pair, and one receives each of its bytes. -/
theorem steps_wire {first second : Byte} {rest : List Transaction} {s t : State}
    (hpending : s.pending = .wire first second :: rest)
    (ht : receive second (receive first { s with pending := rest }) = t) : steps 3 s = .next t := by
  have hpresent : steps 1 s = .next ({ s with pending := rest }.present [first, second]) := by
    rw [steps, step, hpending]
    simp only [decode, exec_decodeWire, steps]
  rw [steps_add 1 2 _ _ hpresent, ← ht]
  refine (steps_rx [first, second] rest _ rfl).trans (congrArg _ ?_)
  rw [← receiveAll_pending]
  rfl

/-- The abort pair inside a frame discards it with one event (R150). -/
theorem receive_abort_pair {s : State} (hf : s.rxFault = .none) (hmode : s.mode = .inMessage) (hesc : s.esc = false) :
    receive abt (receive dle s)
      = { s with buf := [], mode := .idle, result := none, events := s.events ++ [.incomplete s.buf] } := by
  rw [receive_dle hf hesc, receive_message_abort (s := { s with esc := true, result := none }) hf hmode rfl, hesc]

/-- The start pair begins a frame, in both modes (R145, R148). -/
theorem receive_start_pair {s : State} (hf : s.rxFault = .none) (hesc : s.esc = false) :
    receive stx (receive dle s) = { s with buf := [stx], mode := .inMessage, result := none } := by
  rw [receive_dle hf hesc, hesc]
  cases hmode : s.mode with
  | idle => exact receive_idle_start hf rfl rfl
  | inMessage => exact receive_message_start hf rfl rfl

end Sys2Proof.Machine

namespace Sys2Proof
open Machine

/-- Settles O55: the abort pair, and the start pair run from the idle framer the abort leaves. -/
theorem abortThenANewFrameStarts : Obligations.AbortThenANewFrameStarts := by
  intro s hf hmode hesc
  have habort (rest : List Transaction) : steps 3 { s with pending := .wire dle abt :: rest } = .next { s with
      pending := rest, buf := [], mode := .idle, result := none, events := s.events ++ [.incomplete s.buf] } :=
    steps_wire rfl (receive_abort_pair hf hmode hesc)
  refine ⟨habort [], ?_⟩
  have hstart := steps_add 3 3 _ _ (habort [.wire dle stx])
  exact hstart.trans (steps_wire rfl (receive_start_pair hf hesc))

end Sys2Proof
end

section
/-! PROOFS. RESET (70_reset_and_hazards.md R200, R201): the one state it leads to from a given state. -/

namespace Sys2Proof.Machine

/-- RESET never looks at the state: it completes from every one, with the four elements set and the result port emptied. -/
theorem exec_reset (s : State) :
    exec .reset s = .next { s with mode := .idle, esc := false, buf := [], rxFault := .none, result := none } := rfl

theorem framer_of_exec_reset {s t : State} (h : exec .reset s = .next t) : t.framer = State.reset.framer := by
  rw [exec_reset] at h
  cases h
  rfl

end Sys2Proof.Machine

namespace Sys2Proof
open Machine

/-- Settles O7: the elements are read off the start state, and RESET gives the framer the same values from every state. -/
theorem startStateIsTheResetState : Obligations.StartStateIsTheResetState :=
  ⟨rfl, rfl, rfl, rfl, rfl, rfl, rfl, fun _ _ => framer_of_exec_reset⟩

/-- Settles O8: the word 0x00 is RESET's, and `exec_reset` names every element RESET writes; the others are the old state's. -/
theorem resetSetsTheFourElements : Obligations.ResetSetsTheFourElements := by
  intro s
  refine ⟨decode_command_of_eq_hostWord (op := .reset) rfl s.cfg s.esc .nothing, _, exec_reset s, ?_⟩
  simp only [and_self]

end Sys2Proof
end

section
/-! PROOFS. Decoding and encoding (30_encoding.md R67 to R71): the received bytes, the pairs and the tags the encoder presents, and
the one transaction behind a decoded instruction. -/

namespace Sys2Proof
open Machine

section Decode

variable (c : Config)

/-- A received byte is read as the row of its class. -/
theorem decode_rx_eq {e : Bool} {b : Byte} {i : Instr} (h : decodeRx e b = i) : decode c e (.rx b) = .ok i :=
  congrArg _ h

theorem decodeRx_data {b : Byte} (hb : b ≠ 0x10) : decodeRx false b = .rxData b := by
  rw [decodeRx, classify_data hb]

theorem decodeRx_other {b : Byte} (hb : b ∉ [(0x02 : Byte), 0x03, 0x08, 0x10]) : decodeRx true b = .rxOther b := by
  rw [decodeRx, classify_other hb]

/-- The encoder's operation-select word is read as the operation's instruction. -/
theorem decode_hostWord (e : Bool) {op : HostOp} {operands : Operands} {i : Instr} (h : withOperands op operands = .ok i) :
    decode c e (.command (hostWord op) operands) = .ok i :=
  (decode_command_of_eq_hostWord rfl c e operands).trans h

/-- An instruction `withOperands` builds is presented by the word and the operands it was built from. -/
theorem encode_of_withOperands {op : HostOp} {operands : Operands} {i : Instr} (h : withOperands op operands = .ok i) :
    encode c i = .command (hostWord op) operands := by
  unfold withOperands at h
  split at h <;> cases h <;> rfl

/-- Whatever row a received byte is, that row is presented by the byte. -/
theorem encode_decodeRx (e : Bool) (b : Byte) : encode c (decodeRx e b) = .rx b := by
  unfold decodeRx
  cases hclass : classify e b
  case data => rfl
  case other => rfl
  all_goals rw [classify_byte hclass rfl]; rfl

/-- The five tags select their formats (30_encoding.md R60). -/
theorem decodeTag_tags (hc : c.wf = true) (w : List Byte) :
    decodeTag c c.tagS w = .tagS w ∧ decodeTag c c.tagB w = .tagB w ∧ decodeTag c c.tagW w = .tagW w
      ∧ decodeTag c c.tagL w = .tagL w ∧ decodeTag c c.tagP w = .tagP w := by
  obtain ⟨hB, ⟨hWS, hWB⟩, ⟨hLS, hLB, hLW⟩, hPS, hPB, hPW, hPL⟩ := tags_ne_of_wf hc
  simp [decodeTag, hB, hWS, hWB, hLS, hLB, hLW, hPS, hPB, hPW, hPL]

/-- An instruction of a table word is what its transaction decodes to under the reference parameters. -/
theorem decode_of_decodeTableWord {nbits w : Nat} {i : Instr} (h : decodeTableWord nbits w = some i) :
    decode Config.reference false (tableTransaction Config.reference nbits w) = .ok i := by
  rw [decodeTableWord] at h
  split at h
  · next hdecode => cases h; exact hdecode
  · cases h

end Decode

namespace Machine

variable {s : State}

theorem step_of_decode_ok {t : Transaction} {rest : List Transaction} {i : Instr} (hpending : s.pending = t :: rest)
    (hdecode : decode s.cfg s.esc t = .ok i) : step s = exec i { s with pending := rest } := by
  simp only [step, hpending, hdecode]

theorem step_of_nothing_pending (hpending : s.pending = []) : step s = .next { s with result := none } := by
  simp only [step, hpending, State.noReply]

/-- With no DLE pending, presenting a table word changes the transactions waiting alone. -/
theorem withFetchWord_of_no_dle (hesc : s.esc = false) (nbits w : Nat) :
    s.withFetchWord nbits w = { s with pending := tableTransaction s.cfg nbits w :: s.pending } := by
  rw [State.withFetchWord, hesc, ite_self]

end Machine

/-- Settles O4: a word, a pair or a delivery is read back by itself, a received byte by its class, a tag by the distinctness of
the tags. -/
theorem decodeOfEncodeIsTheInstruction : Obligations.DecodeOfEncodeIsTheInstruction := by
  intro c e i hc hi hesc
  cases i
  case rxb b => rfl
  case rxchunk => rfl
  case rxEsc => obtain rfl := hesc _ rfl; rfl
  case rxData b => obtain rfl := hesc _ rfl; exact decode_rx_eq c (decodeRx_data (of_decide_eq_true hi))
  case rxOther b => obtain rfl := hesc _ rfl; exact decode_rx_eq c (decodeRx_other (of_decide_eq_true hi))
  case rxStart | rxEnd | rxAbort | rxLitDle => obtain rfl := hesc _ rfl; rfl
  case wireStart | wireEnd | wireAbort | wireLitDle => rfl
  case tagS | tagB | tagW | tagL | tagP => simp only [encode, decode, decodeTag_tags c hc, Instr.seenBy]
  all_goals exact decode_hostWord c e rfl

/-- Settles O3: each pattern's class decides the row. -/
theorem receivedByteHasTheClassOfItsPattern : Obligations.ReceivedByteHasTheClassOfItsPattern := by
  intro c b
  exact ⟨rfl, fun hb => decode_rx_eq c (decodeRx_data hb), rfl, rfl, rfl, rfl,
    fun hb => decode_rx_eq c (decodeRx_other hb)⟩

/-- Settles O5: the word is the one `hostWord` gives its operation, and a class row stands for its byte. -/
theorem encodeOfDecodeIsTheTransaction : Obligations.EncodeOfDecodeIsTheTransaction := by
  intro c e i cw b operands
  refine ⟨fun h => ?_, fun h => ?_⟩
  · rw [decode, decodeCommand] at h
    split at h
    · cases h
    · next op hop => rw [encode_of_withOperands c h, eq_hostWord_of_hostOpOf hop]
  · cases h
    exact encode_decodeRx c e b

/-- Settles O6: the two branches of `step`. -/
theorem stepRunsTheDecodedInstruction : Obligations.StepRunsTheDecodedInstruction := by
  intro s t rest i
  exact ⟨fun hpending hdecode => step_of_decode_ok hpending hdecode, step_of_nothing_pending⟩

/-- Settles O58: `withFetchWord` presents the very transaction `decodeTableWord` decodes, under the same tags and `esc`. -/
theorem tableWordIsWhatTheStepRuns : Obligations.TableWordIsWhatTheStepRuns := by
  intro s nbits w i hcfg hesc hword
  have hdecode : decode s.cfg s.esc (tableTransaction s.cfg nbits w) = .ok i := by
    rw [hcfg, hesc]
    exact decode_of_decodeTableWord hword
  rw [withFetchWord_of_no_dle hesc]
  exact step_of_decode_ok rfl hdecode

end Sys2Proof
end

section
/-! PROOFS. The invariant (10_state.md section 2, R15): it speaks of the parameters, the mode and the buffer alone, and every rule
of a received byte keeps it. -/

namespace Sys2Proof.Machine

theorem bufBounded_iff (s : State) : s.BufBounded ↔ ∀ m, s.cfg.rxBufMax = some m → s.buf.length ≤ m := by
  unfold State.BufBounded
  split
  · next hmax => simp [hmax]
  · next m hmax => simp [hmax]

/-- Legal parameters leave room for a frame of 16 bytes (10_state.md R16). -/
theorem rxBufMax_ge_of_wf {c : Config} (hc : c.wf = true) {m : Nat} (hm : c.rxBufMax = some m) : 16 ≤ m := by
  rw [Config.wf, hm, Bool.and_eq_true] at hc
  obtain ⟨-, hroom⟩ := hc
  exact of_decide_eq_true hroom

section Inv

variable {s t : State} (hs : s.Inv)

include hs

/-- The invariant looks at the parameters, the mode and the buffer alone. -/
theorem inv_of_same (hcfg : t.cfg = s.cfg) (hmode : t.mode = s.mode) (hbuf : t.buf = s.buf) : t.Inv := by
  obtain ⟨hwf, hframer, hbounded⟩ := hs
  exact ⟨hcfg ▸ hwf, by rwa [State.FramerOk, hmode, hbuf], by rwa [State.BufBounded, hcfg, hbuf]⟩

/-- An idle framer with an empty buffer meets the invariant. -/
theorem inv_of_idle (hcfg : t.cfg = s.cfg) (hmode : t.mode = .idle) (hbuf : t.buf = []) : t.Inv := by
  refine ⟨hcfg ▸ hs.cfg, by rwa [State.FramerOk, hmode], (bufBounded_iff t).2 fun m _ => ?_⟩
  rw [hbuf]
  exact Nat.zero_le m

/-- A frame that has just begun fits every legal capacity. -/
theorem inv_of_start (hcfg : t.cfg = s.cfg) (hmode : t.mode = .inMessage) (hbuf : t.buf = [stx]) : t.Inv := by
  refine ⟨hcfg ▸ hs.cfg, by rw [State.FramerOk, hmode, hbuf]; rfl, (bufBounded_iff t).2 fun m hm => ?_⟩
  have := rxBufMax_ge_of_wf hs.cfg (hcfg ▸ hm)
  rw [hbuf, List.length_singleton]
  omega

/-- `Append` inside a frame keeps the invariant: a full buffer takes no byte, another has room for one. -/
theorem append_keeps_inv (hmode : s.mode = .inMessage) (x : Byte) : (s.append x).Inv := by
  by_cases hfull : s.cfg.rxBufMax = some s.buf.length
  · rw [append_of_full x hfull]
    exact inv_of_same hs rfl rfl rfl
  · rw [append_of_room x hfull]
    obtain ⟨hwf, hframer, hbounded⟩ := hs
    have hhead : s.buf.head? = some stx := by rwa [State.FramerOk, hmode] at hframer
    refine ⟨hwf, ?_, (bufBounded_iff _).2 fun m hm => ?_⟩
    · rw [State.FramerOk, hmode]
      rw [List.head?_append, hhead, Option.some_or]
    · have hle := (bufBounded_iff s).1 hbounded m hm
      have hne : m ≠ s.buf.length := fun h => hfull (h ▸ hm)
      rw [List.length_append, List.length_singleton]
      omega

/-- Each class's rule keeps the invariant, in both modes. -/
theorem ruleOf_keeps_inv (c : RxClass) (b : Byte) : (ruleOf c b s).Inv := by
  cases c
  case escape => exact inv_of_same hs rfl rfl rfl
  case data =>
    rw [ruleOf, ruleData]
    split
    · exact hs
    · next hmode => exact append_keeps_inv hs hmode b
  case start =>
    rw [ruleOf, ruleStart]
    split
    · exact inv_of_start hs rfl rfl rfl
    · next hmode => exact inv_of_start hs rfl hmode rfl
  case finish =>
    rw [ruleOf, ruleEnd]
    split
    · exact inv_of_same hs rfl rfl rfl
    · split
      · exact inv_of_same hs rfl rfl rfl
      · exact inv_of_idle hs rfl rfl rfl
  case abort =>
    rw [ruleOf, ruleAbort]
    split
    · exact inv_of_same hs rfl rfl rfl
    · exact inv_of_idle hs rfl rfl rfl
  case litDle =>
    rw [ruleOf, ruleLitDle]
    split
    · exact inv_of_same hs rfl rfl rfl
    · next hmode => exact append_keeps_inv (s := { s with esc := false }) (inv_of_same hs rfl rfl rfl) hmode dle
  case other =>
    rw [ruleOf, ruleOther]
    split <;> exact inv_of_same hs rfl rfl rfl

/-- A received byte keeps the invariant, in a faulted state too. -/
theorem receive_keeps_inv (b : Byte) : (receive b s).Inv := by
  have hempty : s.noReply.Inv := inv_of_same hs rfl rfl rfl
  rw [receive]
  split
  · exact ruleOf_keeps_inv hempty _ b
  · exact hempty

/-- Whatever an instruction does, the invariant survives it. -/
theorem effect_keeps_inv {i : Instr} (h : Effect s i t) : t.Inv := by
  cases h with
  | reset => exact inv_of_idle hs rfl rfl rfl
  | answer | raised | sent | presented => exact inv_of_same hs rfl rfl rfl
  | received _ b => exact receive_keeps_inv hs b

end Inv

end Sys2Proof.Machine

namespace Sys2Proof
open Machine

/-- Settles O10: taking a transaction off the ports touches nothing the invariant speaks of, and no effect breaks it. -/
theorem everyStepKeepsTheInvariant : Obligations.EveryStepKeepsTheInvariant := by
  intro s t hs hstep
  obtain ⟨-, rfl⟩ | ⟨x, rest, i, -, -, heffect⟩ := step_effect hstep
  · exact inv_of_same hs rfl rfl rfl
  · have htaken : State.Inv { s with pending := rest } := inv_of_same hs rfl rfl rfl
    exact effect_keeps_inv htaken heffect

/-- Settles O9: the reference parameters are legal, the framer is idle, the buffer empty. -/
theorem invariantHoldsAtReset : Obligations.InvariantHoldsAtReset := ⟨by decide, rfl, trivial⟩

end Sys2Proof
end

section
/-! PROOFS. FRENC and SEND (43_frame.md R120, 44_stream_framer.md R141), by the three ways `frameEnc` ends. -/

namespace Sys2Proof.Machine

section FrameBuild

variable {flag : U16} {token : U32} {command : U16} {fs : List Field} {s : State} {frame : List Byte} {e : CodecError}
  {r : Refusal}

/-- FRENC returns a frame exactly where `frameEnc` builds it. -/
theorem exec_frenc_eq_bytes_iff :
    exec (.frenc flag token command fs) s = .next { s with result := some (.bytes frame) }
      ↔ frameEnc s.cfg flag token command fs = .built frame := by
  rw [exec, execFrenc]
  cases frameEnc s.cfg flag token command fs <;> simp [State.answer, State.raise]

/-- FRENC raises an error exactly where `frameEnc` does. -/
theorem exec_frenc_eq_error_iff :
    exec (.frenc flag token command fs) s = .next { s with result := some (.error e) }
      ↔ frameEnc s.cfg flag token command fs = .raised e := by
  rw [exec, execFrenc]
  cases frameEnc s.cfg flag token command fs <;> simp [State.answer, State.raise]

/-- FRENC is refused exactly where `frameEnc` is. -/
theorem exec_frenc_eq_refused_iff :
    exec (.frenc flag token command fs) s = .refused r ↔ frameEnc s.cfg flag token command fs = .refused r := by
  rw [exec, execFrenc]
  cases frameEnc s.cfg flag token command fs <;> simp

theorem exec_send_of_built (h : frameEnc s.cfg flag token command fs = .built frame) :
    exec (.send flag token command fs) s = .next (s.transmit (escape frame)) := by
  rw [exec, execSend, h]

theorem exec_send_of_raised (h : frameEnc s.cfg flag token command fs = .raised e) :
    exec (.send flag token command fs) s = .next { s with result := some (.error e) } := by
  rw [exec, execSend, h]; rfl

theorem exec_send_of_refused (h : frameEnc s.cfg flag token command fs = .refused r) :
    exec (.send flag token command fs) s = .refused r := by
  rw [exec, execSend, h]

/-- An accepted write (R141). -/
theorem transmit_of_accepted (w : List Byte) (h : s.writeAnswer = .accepted) :
    s.transmit w = { s with
      tx := s.tx ++ w, result := some (.bytes w), transport := s.transport.tail, writes := s.writes + 1 } := by
  rw [State.transmit, State.txAfter, State.writeReply, h]

/-- A failed write, of which `n` bytes reached the line (93_implementation_defined.md U14). -/
theorem transmit_of_failed (w : List Byte) {n : Nat} (h : s.writeAnswer = .failed n) :
    s.transmit w = { s with
      tx := s.tx ++ w.take n, result := some (.error .transportError), transport := s.transport.tail,
      writes := s.writes + 1 } := by
  rw [State.transmit, State.txAfter, State.writeReply, h]

end FrameBuild

end Sys2Proof.Machine

namespace Sys2Proof
open Machine

/-- Settles O42: SEND branches on the same `frameEnc` as FRENC, and writes `escape` of the frame. -/
theorem sendIsFrencThenEscThenOneWrite : Obligations.SendIsFrencThenEscThenOneWrite := by
  intro flag token command fs frame w e r n s
  refine ⟨fun hframe hesc => ?_, fun herror => exec_send_of_raised (exec_frenc_eq_error_iff.1 herror),
    fun hrefused => exec_send_of_refused (exec_frenc_eq_refused_iff.1 hrefused)⟩
  have hw : w = escape frame := by simpa using (hesc.symm.trans (exec_esc frame s))
  rw [exec_send_of_built (exec_frenc_eq_bytes_iff.1 hframe), ← hw]
  exact ⟨fun haccepted => congrArg _ (transmit_of_accepted w haccepted),
    fun hfailed => congrArg _ (transmit_of_failed w hfailed)⟩

end Sys2Proof
end

section
/-! PROOFS. What an instruction leaves unchanged (20_memory.md sections 3 and 5): read off `exec_effect`, which says once all an
instruction can do. -/

namespace Sys2Proof.Machine

section Pure

/-- The two ways a pure operation can end (20_memory.md R41): with a reply or a refusal that the operands and the parameters
alone decide. -/
def AnswersAlone (i : Instr) (c : Config) : Prop :=
  (∃ r, ∀ s : State, s.cfg = c → exec i s = .next { s with result := some r })
    ∨ ∃ r, ∀ s : State, s.cfg = c → exec i s = .refused r

variable {i : Instr} {c : Config}

/-- An operation that ends in `finish` answers alone, where its result is a function of the parameters. -/
theorem answersAlone_of_finish (result : Config → Except CodecError Reply)
    (h : ∀ s : State, exec i s = s.finish (result s.cfg)) : AnswersAlone i c := by
  refine .inl ⟨replyOfResult (result c), ?_⟩
  rintro s rfl
  rw [h, State.finish_eq_reply]

theorem answersAlone_of_pure (hi : pureOperation i = true) : AnswersAlone i c := by
  cases i
  case crc16 b => exact answersAlone_of_finish (fun _ => .ok (.u16 (crc16 b))) fun _ => rfl
  case pdenc v => exact answersAlone_of_finish (fun _ => (pdEnc v).map .bytes) fun _ => rfl
  case pddec p =>
    by_cases hlen : p.length = 6
    · exact answersAlone_of_finish (fun _ => (pdDec p).map .int) (exec_pddec_of_length hlen)
    · exact .inr ⟨_, fun s _ => exec_pddec_of_length_ne hlen s⟩
  case fencS t =>
    by_cases ht : textWf t = true
    · exact answersAlone_of_finish (fun c => .ok (.bytes (fencString c t))) fun s => (exec_fencS t s).trans (if_pos ht)
    · exact .inr ⟨_, fun s _ => (exec_fencS t s).trans (if_neg ht)⟩
  case fencB v => exact answersAlone_of_finish (fun c => .ok (.bytes (fencByte c v))) fun _ => rfl
  case fencW v => exact answersAlone_of_finish (fun c => .ok (.bytes (fencWord c v))) fun _ => rfl
  case fencL v => exact answersAlone_of_finish (fun c => .ok (.bytes (fencLong c v))) fun _ => rfl
  case fencP v => exact answersAlone_of_finish (fun c => (fencPacked c v).map .bytes) (exec_fencP v)
  case fdec b =>
    cases b with
    | nil => exact .inr ⟨_, fun _ _ => rfl⟩
    | cons tag w =>
      exact answersAlone_of_finish (fun c => fieldReply (1 + w.length) (fieldDec c 0 tag w)) (exec_fdec_cons tag w)
  case frenc f k cmd fs =>
    obtain h | ⟨e, -, h⟩ | h | ⟨body, -, -, h⟩ := frameEnc_cases c f k cmd fs
    · exact .inr ⟨_, fun s hs => exec_frenc_eq_refused_iff.2 (hs ▸ h)⟩
    · exact .inl ⟨_, fun s hs => exec_frenc_eq_error_iff.2 (hs ▸ h)⟩
    · exact .inr ⟨_, fun s hs => exec_frenc_eq_refused_iff.2 (hs ▸ h)⟩
    · exact .inl ⟨_, fun s hs => exec_frenc_eq_bytes_iff.2 (hs ▸ h)⟩
  case frdec b => exact answersAlone_of_finish (fun c => (frameDec c b).map .message) (exec_frdec b)
  case frvfy b =>
    by_cases hlen : 16 ≤ b.length
    · by_cases hcrc : crcOk b = true
      · exact .inl ⟨_, fun s _ => exec_frvfy_of_crcOk s hlen hcrc⟩
      · exact .inl ⟨_, fun s _ => exec_frvfy_of_mismatch s hlen ((crcOk_iff b).not.1 hcrc)⟩
    · exact .inr ⟨_, fun s _ => exec_frvfy_of_short s (Nat.not_le.1 hlen)⟩
  case esc b => exact answersAlone_of_finish (fun _ => .ok (.bytes (escape b))) fun _ => rfl
  case tagS w => exact answersAlone_of_finish (fun _ => fieldReply (1 + w.length) (fdecString 1 w)) fun _ => rfl
  case tagB w => exact answersAlone_of_finish (fun _ => fieldReply (1 + w.length) (fdecByte 1 w)) fun _ => rfl
  case tagW w => exact answersAlone_of_finish (fun _ => fieldReply (1 + w.length) (fdecWord 1 w)) fun _ => rfl
  case tagL w => exact answersAlone_of_finish (fun _ => fieldReply (1 + w.length) (fdecLong 1 w)) fun _ => rfl
  case tagP w => exact answersAlone_of_finish (fun _ => fieldReply (1 + w.length) (fdecPacked 1 w)) fun _ => rfl
  all_goals cases hi

end Pure

section Receive

variable {i : Instr} (hi : receiveOperation i = true)

include hi

/-- What stood on the result port makes no difference to RXB and its class rows (10_state.md R10). -/
theorem exec_receiveOperation_result (s : State) (r : Option Reply) : exec i { s with result := r } = exec i s := by
  cases i
  case rxb | rxEsc | rxData | rxStart | rxEnd | rxAbort | rxLitDle | rxOther => rfl
  all_goals cases hi

/-- RXB and its class rows answer as `receive` does, for some byte. -/
theorem eq_receive_of_exec {s t : State} (h : exec i s = .next t) : ∃ b, t = receive b s := by
  cases i
  case rxb b => cases h; exact ⟨b, rfl⟩
  case rxEsc | rxData | rxStart | rxEnd | rxAbort | rxLitDle | rxOther => exact ⟨_, receiveAs_next h⟩
  all_goals cases hi

end Receive

section Send

variable {flag : U16} {token : U32} {command : U16} {fs : List Field} {s t : State}

/-- A SEND that answers raised FRENC's error or made one write (44_stream_framer.md R141). -/
theorem exec_send_cases (h : exec (.send flag token command fs) s = .next t) :
    (∃ e, frameEnc s.cfg flag token command fs = .raised e ∧ t = { s with result := some (.error e) })
      ∨ ∃ frame, frameEnc s.cfg flag token command fs = .built frame ∧ t = s.transmit (escape frame) := by
  cases hbuild : frameEnc s.cfg flag token command fs with
  | refused r => cases (exec_send_of_refused hbuild).symm.trans h
  | raised e => cases (exec_send_of_raised hbuild).symm.trans h; exact .inl ⟨e, rfl, rfl⟩
  | built frame => cases (exec_send_of_built hbuild).symm.trans h; exact .inr ⟨frame, rfl, rfl⟩

/-- Only the line, the result port and the transport's bookkeeping are SEND's. -/
theorem send_frame (h : exec (.send flag token command fs) s = .next t) :
    t.framer = s.framer ∧ t.events = s.events ∧ t.cfg = s.cfg ∧ t.pending = s.pending := by
  obtain ⟨e, -, rfl⟩ | ⟨frame, -, rfl⟩ := exec_send_cases h
  · exact ⟨rfl, rfl, rfl, rfl⟩
  · exact ⟨rfl, rfl, rfl, rfl⟩

/-- What is on the line after a write is what was there and some first bytes of the sequence, perhaps all. -/
theorem txAfter_eq_append (s : State) (w : List Byte) : ∃ v, s.txAfter w = s.tx ++ v := by
  unfold State.txAfter
  split
  · exact ⟨w, rfl⟩
  · exact ⟨_, rfl⟩

end Send

section Commute

/-- A state with another send side: what is on the line, the transport's answers to come, the number of writes. -/
def State.withSendSide (s : State) (tx : List Byte) (transport : List WriteAnswer) (writes : Nat) : State :=
  { s with tx := tx, transport := transport, writes := writes }

variable (b : Byte) (s : State) (tx w : List Byte) (transport : List WriteAnswer) (writes : Nat)

theorem append_withSendSide :
    (s.withSendSide tx transport writes).append b = (s.append b).withSendSide tx transport writes := by
  by_cases hfull : s.cfg.rxBufMax = some s.buf.length
  · rw [append_of_full b hfull]
    exact append_of_full b hfull
  · rw [append_of_room b hfull]
    exact append_of_room b hfull

/-- A byte's rule neither reads nor writes the send side (20_memory.md R48). -/
theorem ruleOf_withSendSide (c : RxClass) :
    ruleOf c b (s.withSendSide tx transport writes) = (ruleOf c b s).withSendSide tx transport writes := by
  obtain ⟨cfg, mode, esc, buf, rxFault, result, tx', events, pending, transport', writes'⟩ := s
  cases mode <;> cases c
  case inMessage.data => exact append_withSendSide ..
  case inMessage.litDle =>
    exact append_withSendSide dle ⟨cfg, .inMessage, false, buf, rxFault, result, tx', events, pending, transport', writes'⟩ ..
  case inMessage.finish =>
    by_cases hfull : cfg.rxBufMax = some buf.length
    · simp [ruleOf, ruleEnd, State.withSendSide, State.bufFull, hfull]
    · simp [ruleOf, ruleEnd, State.withSendSide, State.bufFull, State.emit, hfull]
  all_goals rfl

theorem receive_withSendSide :
    receive b (s.withSendSide tx transport writes) = (receive b s).withSendSide tx transport writes := by
  by_cases hf : s.rxFault = .none
  · rw [receive_running hf, receive_running (s := s.withSendSide tx transport writes) hf]
    exact ruleOf_withSendSide b s.noReply tx transport writes _
  · rw [receive_faulted hf]
    exact receive_faulted (s := s.withSendSide tx transport writes) hf b

/-- The transport's answer is the same before and after a received byte. -/
theorem writeAnswer_receive : (receive b s).writeAnswer = s.writeAnswer := by
  obtain ⟨-, -, -, -, htransport, hwrites, -⟩ := receive_received b s
  rw [State.writeAnswer, htransport, hwrites]
  rfl

theorem txAfter_receive : (receive b s).txAfter w = s.txAfter w := by
  rw [State.txAfter, writeAnswer_receive, (receive_received b s).tx]
  rfl

theorem writeReply_receive : (receive b s).writeReply w = s.writeReply w := by
  rw [State.writeReply, writeAnswer_receive, State.writeReply]

/-- A received byte and a write commute, but for the result port. -/
theorem receive_transmit : receive b (s.transmit w) = { (receive b s).transmit w with result := none } := by
  obtain ⟨-, -, -, -, htransport, hwrites, -⟩ := receive_received b s
  have hresult : (receive b s).result = none := (receive_received b s).result
  calc receive b (s.transmit w)
    _ = receive b (s.withSendSide (s.txAfter w) s.transport.tail (s.writes + 1)) := rfl
    _ = (receive b s).withSendSide (s.txAfter w) s.transport.tail (s.writes + 1) := receive_withSendSide ..
    _ = { (receive b s).transmit w with result := none } := by
      rw [State.withSendSide, State.transmit, txAfter_receive, htransport, hwrites, hresult]
      rfl

end Commute

end Sys2Proof.Machine

namespace Sys2Proof
open Machine

/-- Settles O11: none of the effects writes the parameters. -/
theorem noOperationChangesTheParameters : Obligations.NoOperationChangesTheParameters := by
  intro i s t h
  cases exec_effect h with
  | reset | answer | raised | sent | presented => rfl
  | received _ b => exact (receive_received b s).cfg

/-- Settles O12: of the effects only a received byte touches the events, and it adds one at most. -/
theorem onlyReceivedBytesEmitAndAtMostOnce : Obligations.OnlyReceivedBytesEmitAndAtMostOnce := by
  intro i s t h
  cases exec_effect h with
  | reset | answer | raised | sent | presented => exact .inl rfl
  | received hi b => exact (receive_received b s).events.imp_right fun hevents => ⟨hi, hevents⟩

/-- Settles O13: of the effects only a write touches the TX stream, and it adds behind it. -/
theorem onlySendExtendsTheTxStream : Obligations.OnlySendExtendsTheTxStream := by
  intro i s t h
  cases exec_effect h with
  | reset | answer | raised | presented => exact .inl rfl
  | received _ b => exact .inl (receive_received b s).tx
  | sent f k c fs w => exact .inr ⟨⟨f, k, c, fs, rfl⟩, txAfter_eq_append s w⟩

/-- Settles O14: of the effects only RESET and a received byte write the framer, and a faulted framer turns bytes away. -/
theorem stickyFaultIsLeftOnlyByReset : Obligations.StickyFaultIsLeftOnlyByReset := by
  intro i s t hf hi h
  cases exec_effect h with
  | reset => exact absurd rfl hi
  | answer | raised | sent | presented => exact ⟨rfl, rfl⟩
  | received _ b =>
    rw [receive_faulted hf]
    exact ⟨rfl, rfl⟩

/-- Settles O15: the two states have the same parameters, and those decide. -/
theorem pureOperationsOnlyAnswer : Obligations.PureOperationsOnlyAnswer := by
  intro i s t hi hcfg
  have halone : AnswersAlone i t.cfg := answersAlone_of_pure hi
  exact halone.imp (fun ⟨r, h⟩ => ⟨r, h s hcfg, h t rfl⟩) fun ⟨r, h⟩ => ⟨r, h s hcfg, h t rfl⟩

/-- Settles O16: RXB and its class rows are `receive`, which looks at the state with the result port emptied. -/
theorem receiveChangesOnlyTheFramerAndEvents : Obligations.ReceiveChangesOnlyTheFramerAndEvents := by
  intro i s t hi h
  obtain ⟨b, rfl⟩ := eq_receive_of_exec hi h
  obtain ⟨hcfg, hresult, htx, hpending, htransport, hwrites, -⟩ := receive_received b s
  exact ⟨hcfg, htx, hpending, htransport, hwrites, hresult, fun r => (exec_receiveOperation_result hi s r).trans h⟩

/-- Settles O17: neither an error of FRENC nor a write touches the receive side. -/
theorem sendChangesOnlyItsPorts : Obligations.SendChangesOnlyItsPorts :=
  fun _ _ _ _ _ _ h => send_frame h

/-- Settles O18: a received byte leaves the parameters and the transport to SEND, and a write leaves the framer to the byte. -/
theorem sendAndReceiveCommute : Obligations.SendAndReceiveCommute := by
  intro flag token command fs b s t u hsend hrxb
  cases hrxb
  have hcfg : (receive b s).cfg = s.cfg := (receive_received b s).cfg
  obtain ⟨e, hbuild, rfl⟩ | ⟨frame, hbuild, rfl⟩ := exec_send_cases hsend
  · rw [← hcfg] at hbuild
    refine ⟨_, _, rfl, exec_send_of_raised hbuild, rfl, ?_⟩
    exact (noReply_receive b s).symm
  · rw [← hcfg] at hbuild
    refine ⟨_, _, rfl, exec_send_of_built hbuild, ?_, receive_transmit b s _⟩
    exact congrArg some (writeReply_receive b s _)

end Sys2Proof
end

section
/-! PROOFS. The wire form of a frame (30_encoding.md section 3) and its way back (44_stream_framer.md section 4): received by an
idle framer, the escaped bytes between the markers fill the buffer one by one, and the end pair emits the frame's event. -/

namespace Sys2Proof.Machine

/-! ### The wire form -/

/-- The unit of a byte inside a frame: a DLE is doubled, a marker stands for itself. -/
theorem escUnit_inside (b : Byte) : escUnit false false b = if b = dle then [dle, dle] else [b] := by
  simp [escUnit]

theorem escFrom_false_append_etx (inner : List Byte) :
    escFrom false (inner ++ [etx]) = inner.flatMap (escUnit false false) ++ [dle, etx] := by
  induction inner with
  | nil => decide
  | cons b inner ih =>
    have hlast : (inner ++ [etx]).isEmpty = false := by simp
    rw [List.cons_append, escFrom, hlast, ih, List.flatMap_cons, List.append_assoc]

/-- 30_encoding.md section 3: the start pair, the bytes between the markers with every DLE doubled, the end pair. -/
theorem escape_frame (inner : List Byte) :
    escape ([stx] ++ inner ++ [etx]) = [dle, stx] ++ inner.flatMap (escUnit false false) ++ [dle, etx] := by
  have hlast : (inner ++ [etx]).isEmpty = false := by simp
  rw [List.append_assoc, List.singleton_append, escape, escFrom, hlast, escFrom_false_append_etx, ← List.append_assoc]
  rfl

/-- Escaping drops no byte. -/
theorem length_le_length_flatMap_escUnit (inner : List Byte) :
    inner.length ≤ (inner.flatMap (escUnit false false)).length := by
  induction inner with
  | nil => exact Nat.le_refl _
  | cons b inner ih =>
    rw [List.flatMap_cons, List.length_append, List.length_cons, escUnit_length]
    omega

/-! ### Its way back -/

section Receive

variable {s : State} (hf : s.rxFault = .none)

include hf

/-- Any pair but the start pair is discarded outside a frame (R145). -/
theorem receive_discarded_pair (hmode : s.mode = .idle) (hesc : s.esc = false) {second : Byte} (hsecond : second ≠ stx) :
    receive second (receive dle s) = { s with result := none } := by
  rw [receive_dle hf hesc, receive_idle_pair (s := { s with esc := true, result := none }) hf hmode rfl hsecond, hesc]

section InMessage

variable (hmode : s.mode = .inMessage) (hesc : s.esc = false)

include hmode hesc

/-- The end pair inside a frame with room for the end marker emits the frame's event (R149). -/
theorem receive_end_pair (hroom : s.cfg.rxBufMax ≠ some s.buf.length) :
    receive etx (receive dle s) = { s with
      buf := [], mode := .idle, result := none, events := s.events ++ [frameEvent s.cfg (s.buf ++ [etx])] } := by
  rw [receive_dle hf hesc, receive_message_end (s := { s with esc := true, result := none }) hf hmode rfl hroom, hesc]

/-- The end pair at capacity (R149, R152). -/
theorem receive_end_pair_full (hfull : s.cfg.rxBufMax = some s.buf.length) :
    receive etx (receive dle s) = { s with rxFault := .rxOverflow, result := none } := by
  rw [receive_dle hf hesc, receive_message_end_full (s := { s with esc := true, result := none }) hf hmode rfl hfull, hesc]

/-- A doubled DLE inside a frame (R147). -/
theorem receive_litDle_pair (hroom : s.cfg.rxBufMax ≠ some s.buf.length) :
    receive dle (receive dle s) = { s with buf := s.buf ++ [dle], result := none } := by
  rw [receive_dle hf hesc, receive_message_litDle (s := { s with esc := true, result := none }) hf hmode rfl hroom, hesc]

/-- A doubled DLE at capacity (R147, R152). -/
theorem receive_litDle_pair_full (hfull : s.cfg.rxBufMax = some s.buf.length) :
    receive dle (receive dle s) = { s with rxFault := .rxOverflow, result := none } := by
  rw [receive_dle hf hesc, receive_message_litDle_full (s := { s with esc := true, result := none }) hf hmode rfl hfull,
    hesc]

/-- The unit of a byte inside a frame puts that byte into the buffer. -/
theorem receiveAll_escUnit (hroom : s.cfg.rxBufMax ≠ some s.buf.length) (b : Byte) :
    receiveAll (escUnit false false b) s = { s with buf := s.buf ++ [b], result := none } := by
  rw [escUnit_inside]
  split
  · next hb => rw [hb]; exact receive_litDle_pair hf hmode hesc hroom
  · next hb => exact receive_message_data hf hmode hesc hb hroom

end InMessage

/-- The units of bytes that fit the buffer put those bytes into it. -/
theorem receiveAll_flatMap_escUnit (hmode : s.mode = .inMessage) (hesc : s.esc = false) (hresult : s.result = none)
    {inner : List Byte} (hfits : ∀ m, s.cfg.rxBufMax = some m → s.buf.length + inner.length ≤ m) :
    receiveAll (inner.flatMap (escUnit false false)) s = { s with buf := s.buf ++ inner } := by
  induction inner generalizing s with
  | nil => rw [List.append_nil]; rfl
  | cons b inner ih =>
    have hroom : s.cfg.rxBufMax ≠ some s.buf.length := fun h => by
      have := hfits _ h
      rw [List.length_cons] at this
      omega
    rw [List.flatMap_cons, receiveAll_append, receiveAll_escUnit hf hmode hesc hroom,
      ih (s := { s with buf := s.buf ++ [b], result := none }) hf hmode hesc rfl fun m hm => ?_, hresult]
    · simp
    · have := hfits m hm
      simp at this ⊢
      omega

/-- The wire form of a frame that fits the buffer, received by an idle framer, emits the frame's event and leaves the framer
idle. -/
theorem receiveAll_escape_frame (hmode : s.mode = .idle) (hesc : s.esc = false) (hbuf : s.buf = []) {inner : List Byte}
    (hfits : ∀ m, s.cfg.rxBufMax = some m → inner.length + 2 ≤ m) :
    receiveAll (escape ([stx] ++ inner ++ [etx])) s
      = { s with result := none, events := s.events ++ [frameEvent s.cfg ([stx] ++ inner ++ [etx])] } := by
  have hinner : receiveAll (inner.flatMap (escUnit false false)) { s with buf := [stx], mode := .inMessage, result := none }
      = { s with buf := [stx] ++ inner, mode := .inMessage, result := none } :=
    receiveAll_flatMap_escUnit (s := { s with buf := [stx], mode := .inMessage, result := none }) hf rfl hesc rfl
      fun m hm => (Nat.add_comm _ _).trans_le (Nat.le_of_succ_le (hfits m hm))
  have hroom : s.cfg.rxBufMax ≠ some ([stx] ++ inner).length := fun h => by have := hfits _ h; simp at this
  calc receiveAll (escape ([stx] ++ inner ++ [etx])) s
    _ = receiveAll [dle, etx] (receiveAll (inner.flatMap (escUnit false false)) (receiveAll [dle, stx] s)) := by
      rw [escape_frame, receiveAll_append, receiveAll_append]
    _ = receiveAll [dle, etx] { s with buf := [stx] ++ inner, mode := .inMessage, result := none } := by
      rw [← hinner]
      exact congrArg (fun t => receiveAll [dle, etx] (receiveAll _ t)) (receive_start_pair hf hesc)
    _ = { s with result := none, events := s.events ++ [frameEvent s.cfg ([stx] ++ inner ++ [etx])] } := by
      refine (receive_end_pair (s := { s with buf := [stx] ++ inner, mode := .inMessage, result := none }) hf rfl hesc
        hroom).trans ?_
      rw [hmode, hbuf]

end Receive

/-- Deliveries found with the result port empty take one step each and one for each byte. -/
theorem steps_deliveries_of_noReply (chunks : List (List Byte)) (s : State) :
    steps (chunks.length + chunks.flatten.length) { s.noReply with pending := chunks.map .delivery }
      = .next { receiveAll chunks.flatten s.noReply with pending := [] } := by
  induction chunks generalizing s with
  | nil => rfl
  | cons chunk chunks ih =>
    have hcount : (chunk :: chunks).length + (chunk :: chunks).flatten.length
        = (1 + chunk.length) + (chunks.length + chunks.flatten.length) := by simp; omega
    have hfirst := steps_delivery chunk (chunks.map .delivery) s.noReply
    rw [hcount, List.map_cons, steps_add _ _ _ _ hfirst, State.noReply_noReply, ← noReply_receiveAll, ih,
      noReply_receiveAll, List.flatten_cons, receiveAll_append]

/-- The first delivery empties the result port, so what stood there makes no difference to a run of deliveries. -/
theorem steps_deliveries_of_ne_nil {chunks : List (List Byte)} (hne : chunks ≠ []) (s : State) :
    steps (chunks.length + chunks.flatten.length) { s with pending := chunks.map .delivery }
      = .next { receiveAll chunks.flatten s.noReply with pending := [] } := by
  rw [← steps_deliveries_of_noReply]
  cases chunks with
  | nil => exact absurd rfl hne
  | cons chunk chunks =>
    rw [List.length_cons, Nat.succ_add, steps, steps]
    rfl

/-- `RXB b0; ...; RXB bk` receives the bytes one after the other. -/
theorem rxbAll_eq_receiveAll (bytes : List Byte) (s : State) : rxbAll bytes s = .next (receiveAll bytes s) := by
  induction bytes generalizing s with
  | nil => rfl
  | cons b bytes ih => exact ih (receive b s)

/-- A built frame as what stands between its markers. -/
theorem frameBytes_eq_markers (flag : U16) (token : U32) (command : U16) (count : Nat) (body : List Byte) :
    ∃ inner, frameBytes flag token command count body = [stx] ++ inner ++ [etx] ∧ inner.length = 14 + body.length := by
  refine ⟨frameCovered flag token command count body ++
    leBytes 2 (crc16 (frameCovered flag token command count body)).toNat, ?_, ?_⟩
  · simp [frameBytes]
  · rw [List.length_append, frameCovered_length, leBytes_length]
    omega

/-- The wire form of a frame begins with the start pair, ends with the end pair and is longer by two at least. -/
theorem escape_frame_ends (inner : List Byte) :
    ([stx] ++ inner ++ [etx]).length + 2 ≤ (escape ([stx] ++ inner ++ [etx])).length
      ∧ (escape ([stx] ++ inner ++ [etx])).take 2 = [dle, stx]
      ∧ (escape ([stx] ++ inner ++ [etx])).drop ((escape ([stx] ++ inner ++ [etx])).length - 2) = [dle, etx] := by
  have hlen := length_le_length_flatMap_escUnit inner
  rw [escape_frame]
  refine ⟨?_, rfl, List.drop_left' ?_⟩
  · simp only [List.length_append, List.length_cons, List.length_nil]; omega
  · simp

end Sys2Proof.Machine

namespace Sys2Proof
open Machine

/-- Settles O41: the units between the two markers double the DLEs and leave every other byte. -/
theorem wireFormOfAFrame : Obligations.WireFormOfAFrame := by
  intro inner s
  have hunit : escUnit false false = fun b => if b = 0x10 then [0x10, 0x10] else [b] := funext escUnit_inside
  have hform := escape_frame inner
  rw [hunit] at hform
  exact (exec_esc ([stx] ++ inner ++ [etx]) s).trans (by rw [hform]; rfl)

/-- Settles O56: the delivery is the run of its bytes, and they are the wire form of a frame. -/
theorem stuffingRoundTrip : Obligations.StuffingRoundTrip := by
  intro inner wire s hf hmode hesc hbuf hfits hwire
  have hreply := (exec_esc ([stx] ++ inner ++ [etx]) s).symm.trans hwire
  obtain rfl : escape ([stx] ++ inner ++ [etx]) = wire := by simpa using hreply
  refine ⟨frameEvent s.cfg ([stx] ++ inner ++ [etx]), ?_,
    fun m hm => frameEvent_of_ok (exec_frdec_eq_message_iff.1 hm),
    fun e he => frameEvent_of_error (exec_frdec_eq_error_iff.1 he)⟩
  rw [steps_delivery, receiveAll_escape_frame (s := s.noReply) hf hmode hesc hbuf hfits]
  rfl

/-- Settles O57: the line carries the wire form of the frame built, whose event is the Message sent with its checksum right. -/
theorem sentMessageIsReceived : Obligations.SentMessageIsReceived := by
  intro flag token command fs s t r chunks hcfg hfs hfits haccepted htx hsend hchunks hrcfg hframer hcapacity
  obtain ⟨body, henc, hbuild⟩ := frameEnc_of_wf s.cfg flag token command hfs hfits
  have hlength : 16 + body.length = frameLength fs := fieldsEnc_length henc
  refine ⟨_, exec_frenc_eq_bytes_iff.2 hbuild, ?_⟩
  have hline : chunks.flatten = escape (frameBytes flag token command fs.length body) := by
    cases (exec_send_of_built hbuild).symm.trans hsend
    rw [hchunks, transmit_of_accepted _ haccepted, htx, List.nil_append]
  have hevent : frameEvent r.cfg (frameBytes flag token command fs.length body) = .message
      { flag := flag, token := token, command := command, length := BitVec.ofNat 16 (frameLength fs), fields := fs,
        checksum := crc16 (frameCovered flag token command fs.length body) } true := by
    have hfields := fieldsDec_of_fieldsEnc hcfg hfs henc le_rfl 13
    have hmessage := messageOf_frameBytes flag token command fs.length body
      ((length_le_frameLength fs).trans hfits) (hlength.trans_le hfits) fs
    rw [hrcfg, frameEvent_of_ok (frameDec_frameBytes flag token command fs.length body hfields), hmessage, hlength,
      crcOk_frameBytes]
  obtain ⟨inner, hinner, hinnerLength⟩ := frameBytes_eq_markers flag token command fs.length body
  have hne : chunks ≠ [] := by
    rintro rfl
    rw [hinner, escape_frame] at hline
    cases hline
  simp only [State.framer, Prod.mk.injEq] at hframer
  obtain ⟨hmode, hesc, hbuf, hf⟩ := hframer
  have hroom : ∀ m, r.cfg.rxBufMax = some m → inner.length + 2 ≤ m := fun m hm => by
    have := hcapacity m hm
    omega
  rw [steps_deliveries_of_ne_nil hne, hline, slice_frameBytes_covered, hinner,
    receiveAll_escape_frame (s := r.noReply) hf hmode hesc hbuf hroom, ← hinner, State.noReply_cfg, hevent]
  rfl

/-- Settles O43: the frame is built, and its wire form is written as far as the transport takes it. -/
theorem sendCompletes : Obligations.SendCompletes := by
  intro flag token command fs s hfs hfits
  obtain ⟨body, henc, hbuild⟩ := frameEnc_of_wf s.cfg flag token command hfs hfits
  obtain ⟨inner, hinner, -⟩ := frameBytes_eq_markers flag token command fs.length body
  obtain ⟨hlen, hfirst, hlast⟩ := escape_frame_ends inner
  rw [← hinner] at hlen hfirst hlast
  rw [frameBytes_length, fieldsEnc_length henc] at hlen
  refine ⟨_, _, exec_send_of_built hbuild, hlen, hfirst, hlast, ?_⟩
  cases hanswer : s.writeAnswer with
  | accepted => rw [transmit_of_accepted _ hanswer]; exact .inl ⟨rfl, rfl⟩
  | failed n => rw [transmit_of_failed _ hanswer]; exact .inr ⟨rfl, n, rfl⟩

/-- Settles O52: the bytes of a delivery wait before all else, and both runs receive them one by one. -/
theorem rxchunkIsItsRxbSteps : Obligations.RxchunkIsItsRxbSteps := by
  intro bytes s
  refine ⟨rfl, fun rest hpending => ?_⟩
  have hs : s = { s with pending := .delivery bytes :: rest } := by rw [← hpending]
  rw [hs, steps_delivery, ← receiveAll_pending, rxbAll_eq_receiveAll]
  rfl

end Sys2Proof
end

section
/-! PROOFS. The class rows under the other `esc` (30_encoding.md R70), and the wire units as their pairs (R67). -/

namespace Sys2Proof.Machine

/-- With no DLE pending a byte is one of two classes (R70). -/
theorem classify_false_eq (b : Byte) : classify false b = .escape ∨ classify false b = .data := by
  by_cases hb : b = dle
  · rw [hb]; exact .inl classify_false_dle
  · exact .inr (classify_data hb)

/-- With a DLE pending a byte is of neither of them. -/
theorem classify_true_ne (b : Byte) : classify true b ≠ .escape ∧ classify true b ≠ .data := by
  rw [classify, if_pos rfl]
  split_ifs <;> simp

section Refused

variable {s : State} (hf : s.rxFault = .none) {c : RxClass} (b : Byte)

include hf

theorem receiveAs_refused_of_no_dle (hesc : s.esc = false) (hc : c ≠ .escape ∧ c ≠ .data) :
    receiveAs c b s = .refused (.notOfClass c) := by
  refine receiveAs_refused hf ?_
  obtain ⟨hescape, hdata⟩ := hc
  rw [hesc]
  obtain h | h := classify_false_eq b
  · exact h ▸ hescape.symm
  · exact h ▸ hdata.symm

theorem receiveAs_refused_of_dle (hesc : s.esc = true) (hc : c = .escape ∨ c = .data) :
    receiveAs c b s = .refused (.notOfClass c) := by
  refine receiveAs_refused hf ?_
  obtain ⟨hescape, hdata⟩ := classify_true_ne b
  rw [hesc]
  obtain rfl | rfl := hc
  · exact hescape
  · exact hdata

end Refused

end Sys2Proof.Machine

namespace Sys2Proof
open Machine

/-- Settles O51: a byte's class row runs its rule, and a row of the other `esc` is not the byte's class. -/
theorem classRowsAreRxbOfTheirByte : Obligations.ClassRowsAreRxbOfTheirByte := by
  intro b s
  refine ⟨⟨_, rfl⟩, exec_decodeRx b s, fun hf hesc => ?_, fun hf hesc => ?_⟩
  · have hrefused {c : RxClass} (x : Byte) (hc : c ≠ .escape ∧ c ≠ .data) := receiveAs_refused_of_no_dle hf x hesc hc
    exact ⟨hrefused stx (by decide), hrefused etx (by decide), hrefused abt (by decide), hrefused dle (by decide),
      hrefused b (by decide)⟩
  · exact ⟨receiveAs_refused_of_dle hf dle hesc (.inl rfl), receiveAs_refused_of_dle hf b hesc (.inr rfl)⟩

/-- Settles O54: a unit takes three steps, of which two receive its pair, and the pair's lemma says what it did. -/
theorem wireUnitsActAsTheirPairs : Obligations.WireUnitsActAsTheirPairs := by
  rintro _ s hf hesc rfl
  have hsteps {second : Byte} {t : State} (ht : receive second (receive dle s) = t) :
      steps 3 { s with pending := .wire dle second :: s.pending } = .next t := steps_wire rfl ht
  refine ⟨rfl, rfl, rfl, rfl, hsteps (receive_start_pair hf hesc), fun hmode hroom => ?_, fun hmode hfull => ?_,
    fun hmode => hsteps (receive_abort_pair hf hmode hesc), fun hmode => ?_⟩
  · exact ⟨hsteps (receive_end_pair hf hmode hesc hroom), hsteps (receive_litDle_pair hf hmode hesc hroom)⟩
  · exact ⟨hsteps (receive_end_pair_full hf hmode hesc hfull), hsteps (receive_litDle_pair_full hf hmode hesc hfull)⟩
  · have hdiscarded {second : Byte} (hsecond : second ≠ stx) := hsteps (receive_discarded_pair hf hmode hesc hsecond)
    exact ⟨hdiscarded (by decide), hdiscarded (by decide), hdiscarded (by decide)⟩

end Sys2Proof
end

section
/-! PROOFS. CRC16 as a division (40_checksum.md section 3): the table step is eight conditional shifts, by the linearity of the
shift; a register fed its own two bytes is cleared. -/

namespace Sys2Proof.Machine

/-- `CRC_TABLE` and the bit-serial computation repeat the same shift. -/
theorem crcTable_eq_repeat (i : Byte) : crcTable i = Nat.repeat crcShift 8 (i.setWidth 16 <<< 8) := rfl

theorem bitSerialByte_eq_repeat (crc : U16) (b : Byte) :
    bitSerialByte crc b = Nat.repeat crcShift 8 (crc ^^^ (b.setWidth 16 <<< 8)) := rfl

theorem repeat_crcShift_xor (n : Nat) (x y : U16) :
    Nat.repeat crcShift n (x ^^^ y) = Nat.repeat crcShift n x ^^^ Nat.repeat crcShift n y := by
  induction n with
  | zero => rfl
  | succ n ih => rw [Nat.repeat, ih, crcShift_xor]; rfl

/-- The low byte of the register does not reach the top bit in eight shifts, so they are plain ones. -/
theorem repeat_crcShift_low (b : Byte) {n : Nat} (hn : n ≤ 8) :
    Nat.repeat crcShift n (b.setWidth 16) = b.setWidth 16 <<< n := by
  induction n with
  | zero => exact (BitVec.shiftLeft_zero _).symm
  | succ n ih =>
    have htop : (b.setWidth 16 <<< n : U16).getLsbD 15 = false := by
      simp [BitVec.getLsbD_of_ge b (15 - n) (by omega)]
    rw [Nat.repeat, ih (by omega), crcShift_of_top_clear htop, BitVec.shiftLeft_add]

/-- The register is its two bytes. -/
theorem high_xor_low (crc : U16) :
    ((crc.extractLsb' 8 8).setWidth 16 <<< 8) ^^^ (crc.extractLsb' 0 8).setWidth 16 = crc := by
  refine BitVec.eq_of_getLsbD_eq fun i hi => ?_
  by_cases hlow : i < 8
  · simp [hlow, hi]
  · have hhigh : i - 8 < 8 := by omega
    have hi' : 8 + (i - 8) = i := by omega
    simp [hlow, hi, hhigh, hi']

/-- Eight shifts push the high byte out of the register. -/
theorem low_shiftLeft (crc : U16) : (crc.extractLsb' 0 8).setWidth 16 <<< 8 = crc <<< 8 := by
  refine BitVec.eq_of_getLsbD_eq fun i hi => ?_
  have hlow : i - 8 < 8 := by omega
  simp [hi, hlow, BitVec.getLsbD_eq_getElem (show i - 8 < 16 by omega)]

/-- One input byte, bit by bit or by the table (R81, R83): the table holds the shifts of the high byte, and the low byte moves
up unchanged. -/
theorem bitSerialByte_eq_crcStep (crc : U16) (b : Byte) : bitSerialByte crc b = crcStep crc b := by
  have hbytes : crc ^^^ (b.setWidth 16 <<< 8)
      = ((crc.extractLsb' 8 8 ^^^ b).setWidth 16 <<< 8) ^^^ (crc.extractLsb' 0 8).setWidth 16 := by
    rw [BitVec.setWidth_xor, BitVec.shiftLeft_xor_distrib, BitVec.xor_assoc, BitVec.xor_comm (b.setWidth 16 <<< 8),
      ← BitVec.xor_assoc, high_xor_low]
  calc bitSerialByte crc b
    _ = crcTable (crc.extractLsb' 8 8 ^^^ b) ^^^ ((crc.extractLsb' 0 8).setWidth 16 <<< 8) := by
      rw [bitSerialByte_eq_repeat, hbytes, repeat_crcShift_xor, repeat_crcShift_low _ (Nat.le_refl 8), crcTable_eq_repeat]
    _ = crcStep crc b := by rw [low_shiftLeft, BitVec.xor_comm, crcStep]

theorem bitSerialCrc_eq_crc16 (bytes : List Byte) : bitSerialCrc bytes = crc16 bytes := by
  have hstep : bitSerialByte = crcStep := funext fun crc => funext (bitSerialByte_eq_crcStep crc)
  rw [bitSerialCrc, hstep, crc16]

/-- The register's high byte meets itself, so only the low byte is left, moved up. -/
theorem crcStep_high (c : U16) : crcStep c (c.extractLsb' 8 8) = c <<< 8 := by
  have hzero : crcTable 0 = 0 := by rw [← crcStep_zero_left, crcStep_zero]
  rw [crcStep, BitVec.xor_self]
  exact (congrArg _ hzero).trans BitVec.xor_zero

/-- Then the low byte meets itself. -/
theorem crcStep_low (c : U16) : crcStep (c <<< 8) (c.extractLsb' 0 8) = 0 := by
  have hmoved : (c <<< 8).extractLsb' 8 8 = c.extractLsb' 0 8 := by
    refine BitVec.eq_of_getLsbD_eq fun i hi => ?_
    have hbit : 8 + i < 16 := by omega
    simp [hi, hbit, BitVec.getLsbD_eq_getElem (show i < 16 by omega)]
  have hout : c <<< 8 <<< 8 = 0 := by rw [← BitVec.shiftLeft_add]; exact BitVec.shiftLeft_eq_zero (by decide)
  rw [← hmoved, crcStep_high, hout]

theorem crc16_append_crc (bytes : List Byte) :
    crc16 (bytes ++ [(crc16 bytes).extractLsb' 8 8, (crc16 bytes).extractLsb' 0 8]) = 0 := by
  rw [crc16_append, List.foldl_cons, List.foldl_cons, List.foldl_nil, crcStep_high, crcStep_low]

end Sys2Proof.Machine

namespace Sys2Proof
open Machine

/-- Settles O20: the two computations agree on each byte. -/
theorem crc16IsTheBitSerialDivision : Obligations.Crc16IsTheBitSerialDivision := by
  intro bytes s
  rw [bitSerialCrc_eq_crc16, exec_crc16]

/-- Settles O21: the two bytes of the CRC clear the register one after the other. -/
theorem crcOfMessageWithItsCrcIsZero : Obligations.CrcOfMessageWithItsCrcIsZero := by
  intro bytes c s hcrc
  obtain rfl : crc16 bytes = c := by simpa using (exec_crc16 bytes s).symm.trans hcrc
  rw [exec_crc16, crc16_append_crc]

end Sys2Proof
end

section
/-! PROOFS. PDENC of what PDDEC read (41_packed_decimal.md, the converse law): the digits of a base-100 number are its bytes. -/

namespace Sys2Proof.Machine

theorem twoDigits_lt {b : Byte} (hb : Decimal b) : twoDigits b < 100 := by
  rw [twoDigits]; omega

/-- A byte of two decimal digits is written back from the two digits of any number that ends in them. -/
theorem pdByte_zero_of_decimal {b : Byte} (hb : Decimal b) (hundreds : Nat) :
    pdByte (twoDigits b + 100 * hundreds) 0 = b := by
  have hdigits := twoDigits_lt hb
  apply BitVec.eq_of_toNat_eq
  rw [pdByte_toNat, twoDigits]
  rw [Decimal] at hb
  omega

theorem map_pdByte_base100 {p : List Byte} (hp : ∀ b ∈ p, Decimal b) :
    (List.range p.length).map (pdByte (base100 p)) = p := by
  induction p with
  | nil => rfl
  | cons b p ih =>
    obtain ⟨hb, hp⟩ := List.forall_mem_cons.1 hp
    have hhundreds : (twoDigits b + 100 * base100 p) / 100 = base100 p := by
      have := twoDigits_lt hb
      omega
    have htail : pdByte (base100 (b :: p)) ∘ Nat.succ = pdByte (base100 p) := by
      funext k
      rw [Function.comp_apply, Nat.succ_eq_add_one, pdByte_succ, base100, hhundreds]
    rw [List.length_cons, List.range_succ_eq_map, List.map_cons, List.map_map, htail, ih hp, base100,
      pdByte_zero_of_decimal hb]

theorem base100_lt {p : List Byte} (hp : ∀ b ∈ p, Decimal b) : base100 p < 100 ^ p.length := by
  induction p with
  | nil => exact Nat.one_pos
  | cons b p ih =>
    obtain ⟨hb, hp⟩ := List.forall_mem_cons.1 hp
    have hlow := twoDigits_lt hb
    have hhigh := ih hp
    rw [base100, List.length_cons, pow_succ]
    omega

/-- The bias of R90 undoes the sign rule of R91 on twelve digits, and what it undoes lies in the domain. -/
theorem pdMagnitude_pdSigned {u : Nat} (hu : u < 100 ^ 6) :
    pdMagnitude (pdSigned u) = u ∧ -500000000000 ≤ pdSigned u ∧ pdSigned u ≤ 499999999999 := by
  rw [pdMagnitude, pdSigned]
  split_ifs <;> omega

end Sys2Proof.Machine

namespace Sys2Proof
open Machine

/-- Settles O25: the magnitude is kept, and its digits are the payload. -/
theorem pdencInvertsPddec : Obligations.PdencInvertsPddec := by
  intro p s hlen hp
  obtain ⟨hmagnitude, hdomain⟩ := pdMagnitude_pdSigned (hlen ▸ base100_lt hp)
  have hbytes : (List.range 6).map (pdByte (base100 p)) = p := hlen ▸ map_pdByte_base100 hp
  refine ⟨_, exec_pddec_of_decimal hlen hp s, ?_⟩
  rw [exec_pdenc_of_domain hdomain, hmagnitude, hbytes]

end Sys2Proof
end

section
/-! PROOFS. The field formats (42_field.md R106 to R111): what each reads from its payload, at any offset, alone and behind its
tag. -/

namespace Sys2Proof.Machine

theorem fieldDec_unknown {c : Config} {tag : Byte} (htag : tag ∉ c.tags) (p : Nat) (w : List Byte) :
    fieldDec c p tag w = .error (.unknownFieldType tag p) := by
  simp only [Config.tags, List.mem_cons, List.not_mem_nil, or_false, not_or] at htag
  obtain ⟨hS, hB, hW, hL, hP⟩ := htag
  rw [fieldDec, if_neg hS, if_neg hB, if_neg hW, if_neg hL, if_neg hP]

theorem fdecString_unterminated {t : List Byte} (ht : ∀ b ∈ t, b ≠ 0x00) (q : Nat) :
    fdecString q t = .error (.frameFormat .stringNotTerminated q) := by
  rw [fdecString, splitAtNul_none ht]

theorem fdecWord_truncated {w : List Byte} (hw : w.length < 2) (q : Nat) :
    fdecWord q w = .error (.frameFormat .wordTruncated q) := if_pos hw

theorem fdecLong_truncated {w : List Byte} (hw : w.length < 4) (q : Nat) :
    fdecLong q w = .error (.frameFormat .longTruncated q) := if_pos hw

theorem fdecPacked_truncated {w : List Byte} (hw : w.length < 6) (q : Nat) :
    fdecPacked q w = .error (.frameFormat .packedTruncated q) := if_pos hw

/-- The lowest byte comes first. -/
theorem leBytes_append {width : Nat} (n : Nat) (high : BitVec width) (b : Byte) :
    leBytes (n + 1) (high ++ b).toNat = b :: leBytes n high.toNat := by
  have hvalue : (high ++ b).toNat = high.toNat * 256 + b.toNat := by
    rw [BitVec.toNat_append, ← Nat.shiftLeft_add_eq_or_of_lt b.isLt, Nat.shiftLeft_eq]
  have hhigh : (high.toNat * 256 + b.toNat) / 256 = high.toNat := by omega
  rw [hvalue, leBytes, hhigh]
  congr 1
  apply BitVec.eq_of_toNat_eq
  rw [BitVec.toNat_ofNat]
  omega

theorem leBytes_one (b : Byte) : leBytes 1 b.toNat = [b] := by
  rw [leBytes, BitVec.ofNat_toNat, BitVec.setWidth_eq, leBytes]

theorem leBytes_two_append (b0 b1 : Byte) : leBytes 2 (b1 ++ b0).toNat = [b0, b1] := by
  rw [leBytes_append, leBytes_one]

theorem leBytes_four_append (b0 b1 b2 b3 : Byte) : leBytes 4 (b3 ++ b2 ++ b1 ++ b0).toNat = [b0, b1, b2, b3] := by
  rw [leBytes_append, leBytes_append, leBytes_append, leBytes_one]

theorem fdecWord_cons (q : Nat) (b0 b1 : Byte) (rest : List Byte) :
    fdecWord q (b0 :: b1 :: rest) = .ok (.word (b1 ++ b0), rest) := by
  have hread := fdecWord_leBytes_append q (b1 ++ b0) rest
  rwa [leBytes_two_append] at hread

theorem fdecLong_cons (q : Nat) (b0 b1 b2 b3 : Byte) (rest : List Byte) :
    fdecLong q (b0 :: b1 :: b2 :: b3 :: rest) = .ok (.long (b3 ++ b2 ++ b1 ++ b0), rest) := by
  have hread := fdecLong_leBytes_append q (b3 ++ b2 ++ b1 ++ b0) rest
  rwa [leBytes_four_append] at hread

/-- A PackedDecimal payload of six bytes is read as PDDEC reads them. -/
theorem fdecPacked_append {p : List Byte} (hp : p.length = 6) (q : Nat) (w : List Byte) :
    fdecPacked q (p ++ w) = (pdDec p).map fun v => (.packed v, w) := by
  have hwidth : ¬(p ++ w).length < 6 := by rw [List.length_append]; omega
  rw [fdecPacked, if_neg hwidth, List.take_left' hp, List.drop_left' hp]
  cases pdDec p <;> rfl

/-- Only decimal bytes have a magnitude. -/
theorem decimal_of_pdValue_ok {k : Nat} {p : List Byte} {u : Nat} (h : pdValue k p = .ok u) : ∀ b ∈ p, Decimal b := by
  induction p generalizing k u with
  | nil => exact List.forall_mem_nil _
  | cons b p ih =>
    rw [pdValue] at h
    split at h
    · cases h
    · next hp =>
      split at h
      · cases h
      · next hb =>
        rw [hiNibble_eq, loNibble_eq] at hb
        exact List.forall_mem_cons.2 ⟨by rw [Decimal]; omega, ih hp⟩

theorem pdDec_of_decimal {p : List Byte} (hp : ∀ b ∈ p, Decimal b) : pdDec p = .ok (pdSigned (base100 p)) := by
  rw [pdDec, pdValue_of_decimal hp]

/-- Of bytes not all decimal one is reported. -/
theorem pdDec_of_not_decimal {p : List Byte} (hp : ¬∀ b ∈ p, Decimal b) : ∃ k b, pdDec p = .error (.digitError k b) := by
  cases hvalue : pdValue 0 p with
  | ok u => exact absurd (decimal_of_pdValue_ok hvalue) hp
  | error e =>
    obtain ⟨k, b, rfl⟩ := pdValue_error hvalue
    exact ⟨k, b, by rw [pdDec, hvalue]⟩

/-- Of several bad bytes it is the last (41_packed_decimal.md R91). -/
theorem pdDec_of_bad {p : List Byte} {k : Nat} (hk : k < p.length) (hbad : ¬Decimal p[k])
    (hafter : ∀ j (hj : j < p.length), k < j → Decimal p[j]) : pdDec p = .error (.digitError k p[k]) := by
  rw [pdDec, pdValue_of_bad hk hbad hafter, Nat.zero_add]

/-- A field decode alone that raises puts its error on the result port. -/
theorem finish_fieldReply_error {r : FieldResult} {e : CodecError} (h : r = .error e) (total : Nat) (s : State) :
    s.finish (fieldReply total r) = .next { s with result := some (.error e) } := by
  rw [h]; rfl

/-- A field decode alone that leaves `rest` of its payload answers with the Field and how many bytes it took. -/
theorem finish_fieldReply_ok {r : FieldResult} {f : Field} {rest : List Byte} (h : r = .ok (f, rest)) {total used : Nat}
    (hused : total = used + rest.length) (s : State) :
    s.finish (fieldReply total r) = .next { s with result := some (.field f used) } := by
  rw [h, fieldReply, hused, Nat.add_sub_cancel]; rfl

end Sys2Proof.Machine

namespace Sys2Proof
open Machine

/-- Settles O30: behind each tag stands its own format, and a sixth tag selects none. -/
theorem fdecDispatchesOnTheTag : Obligations.FdecDispatchesOnTheTag := by
  intro s tag w hcfg
  refine ⟨?_, ?_, ?_, ?_, ?_, fun htag => finish_fieldReply_error (fieldDec_unknown htag 0 w) _ s, rfl⟩
  · rw [exec_fdec_cons, fieldDec_tagS]; rfl
  · rw [exec_fdec_cons, fieldDec_tagB hcfg]; rfl
  · rw [exec_fdec_cons, fieldDec_tagW hcfg]; rfl
  · rw [exec_fdec_cons, fieldDec_tagL hcfg]; rfl
  · rw [exec_fdec_cons, fieldDec_tagP hcfg]; rfl

/-- Settles O31: the scan stops at the first NUL, and without one it finds no end. -/
theorem stringFieldEndsAtTheFirstNul : Obligations.StringFieldEndsAtTheFirstNul := by
  intro t rest q s ht
  have hread (q : Nat) : fdecString q (t ++ [0x00] ++ rest) = .ok (.string t, rest) := by
    rw [List.append_assoc]
    exact fdecString_append_nul ht q rest
  exact ⟨hread q, fdecString_unterminated ht q, finish_fieldReply_ok (hread 1) (by simp; omega) s,
    finish_fieldReply_error (fdecString_unterminated ht 1) _ s⟩

/-- Settles O32: each format's own lemma, at offset `q` and, for the row, at offset 1. -/
theorem numberFieldsReadTheirWidth : Obligations.NumberFieldsReadTheirWidth := by
  intro b0 b1 b2 b3 w q s
  refine ⟨rfl, rfl, fdecWord_cons q b0 b1 w, fun hw => fdecWord_truncated hw q, fdecLong_cons q b0 b1 b2 b3 w,
    fun hw => fdecLong_truncated hw q, finish_fieldReply_ok (fdecByte_cons 1 b0 w) ?_ s,
    finish_fieldReply_ok (fdecWord_cons 1 b0 b1 w) ?_ s, finish_fieldReply_ok (fdecLong_cons 1 b0 b1 b2 b3 w) ?_ s, rfl,
    fun hw => finish_fieldReply_error (fdecWord_truncated hw 1) _ s,
    fun hw => finish_fieldReply_error (fdecLong_truncated hw 1) _ s⟩
  all_goals simp only [List.length_cons]; omega

/-- Settles O33: with the width there, the payload is PDDEC's operand, and `pdDec` decides in both. -/
theorem packedFieldIsPddecOfSixBytes : Obligations.PackedFieldIsPddecOfSixBytes := by
  intro p w q s
  refine ⟨fun hlen hp => ?_, fun hlen hp => ?_,
    fun hw => ⟨fdecPacked_truncated hw q, finish_fieldReply_error (fdecPacked_truncated hw 1) _ s⟩⟩
  · have hread (q : Nat) : fdecPacked q (p ++ w) = .ok (.packed (pdSigned (base100 p)), w) := by
      rw [fdecPacked_append hlen, pdDec_of_decimal hp]; rfl
    exact ⟨_, exec_pddec_of_decimal hlen hp s, hread q, finish_fieldReply_ok (hread 1) (by simp [hlen]; omega) s⟩
  · obtain ⟨k, b, hbad⟩ := pdDec_of_not_decimal hp
    have hread (q : Nat) : fdecPacked q (p ++ w) = .error (.digitError k b) := by
      rw [fdecPacked_append hlen, hbad]; rfl
    exact ⟨k, b, by rw [exec_pddec_of_length hlen, hbad]; rfl, hread q, finish_fieldReply_error (hread 1) _ s⟩

end Sys2Proof
end

section
/-! PROOFS. FRDEC on any sequence (43_frame.md R121, R124, R125, R127): its first checks, what its answer depends on, and where its
Message comes from. -/

namespace Sys2Proof.Machine

section Checks

variable (c : Config) {b : List Byte}

theorem frameDec_of_short (hlen : b.length < 16) : frameDec c b = .error (.frameFormat .tooShort b.length) := if_pos hlen

variable (hlen : 16 ≤ b.length)

include hlen

theorem frameDec_of_no_start (hstart : b[0]? ≠ some stx) : frameDec c b = .error (.frameFormat .noStartMarker 0) := by
  rw [frameDec, if_neg (Nat.not_lt.2 hlen), if_pos hstart]

variable (hstart : b[0]? = some stx)

include hstart

theorem frameDec_of_no_end (hend : b[b.length - 1]? ≠ some etx) :
    frameDec c b = .error (.frameFormat .noEndMarker (b.length - 1)) := by
  rw [frameDec, if_neg (Nat.not_lt.2 hlen), if_neg (not_not.2 hstart), if_pos hend]

/-- Between its markers the fields decide (R127 (4)). -/
theorem frameDec_of_markers (hend : b[b.length - 1]? = some etx) :
    frameDec c b = (fieldsDec c (fieldArea b).length 13 (fieldArea b)).map (messageOf b) := by
  rw [frameDec, if_neg (Nat.not_lt.2 hlen), if_neg (not_not.2 hstart), if_neg (not_not.2 hend)]
  cases fieldsDec c (fieldArea b).length 13 (fieldArea b) <;> rfl

end Checks

/-- A slice depends on its bytes alone. -/
theorem slice_congr {a b : List Byte} {i n : Nat} (h : ∀ k, i ≤ k → k < i + n → a[k]? = b[k]?) :
    slice a i n = slice b i n := by
  apply List.ext_getElem?
  intro k
  rw [slice, slice, List.getElem?_take, List.getElem?_take, List.getElem?_drop, List.getElem?_drop]
  split
  · exact h _ (by omega) (by omega)
  · rfl

/-- Where the bytes of flag, token and command agree, the Messages agree but for the two attributes FRDEC compares with nothing
(R124, R125). -/
theorem messageOf_congr {a b : List Byte} (fields : List Field)
    (h : ∀ k, (1 ≤ k ∧ k < 7) ∨ (11 ≤ k ∧ k < 13) → a[k]? = b[k]?) :
    messageOf b fields
      = { messageOf a fields with length := (messageOf b fields).length, checksum := (messageOf b fields).checksum } := by
  have hflag : memRead a 1 2 = memRead b 1 2 := memRead_congr fun k _ _ => h k (by omega)
  have htoken : memRead a 3 4 = memRead b 3 4 := memRead_congr fun k _ _ => h k (by omega)
  have hcommand : memRead a 11 2 = memRead b 11 2 := memRead_congr fun k _ _ => h k (by omega)
  simp only [messageOf, hflag, htoken, hcommand]

/-- Two sequences of one length with the same markers and fields pass or fail FRDEC's checks together, and then decode to the
same fields. -/
theorem frameDec_congr (c : Config) {a b : List Byte} (hlen : a.length = b.length)
    (hsame : 16 ≤ a.length → a[0]? = b[0]? ∧ a[a.length - 1]? = b[a.length - 1]? ∧ fieldArea a = fieldArea b) :
    (∃ e, frameDec c a = .error e ∧ frameDec c b = .error e)
      ∨ ∃ fields, 16 ≤ a.length ∧ frameDec c a = .ok (messageOf a fields) ∧ frameDec c b = .ok (messageOf b fields) := by
  by_cases hshort : a.length < 16
  · exact .inl ⟨_, frameDec_of_short c hshort, hlen ▸ frameDec_of_short c (hlen ▸ hshort)⟩
  have hlong : 16 ≤ a.length := Nat.not_lt.1 hshort
  have hlong' : 16 ≤ b.length := hlen ▸ hlong
  obtain ⟨hfirst, hlast, harea⟩ := hsame hlong
  by_cases hstart : a[0]? = some stx
  · have hstart' := hfirst.symm.trans hstart
    by_cases hend : a[a.length - 1]? = some etx
    · have hend' : b[b.length - 1]? = some etx := hlen ▸ hlast.symm.trans hend
      rw [frameDec_of_markers c hlong hstart hend, frameDec_of_markers c hlong' hstart' hend', harea]
      cases fieldsDec c (fieldArea b).length 13 (fieldArea b) with
      | error e => exact .inl ⟨e, rfl, rfl⟩
      | ok fields => exact .inr ⟨fields, hlong, rfl, rfl⟩
    · have hend' : b[b.length - 1]? ≠ some etx := hlen ▸ hlast ▸ hend
      exact .inl ⟨_, frameDec_of_no_end c hlong hstart hend, hlen ▸ frameDec_of_no_end c hlong' hstart' hend'⟩
  · exact .inl ⟨_, frameDec_of_no_start c hlong hstart, frameDec_of_no_start c hlong' (hfirst ▸ hstart)⟩

/-- A Message FRDEC gives is that of the frame and of the fields the loop read. -/
theorem messageOf_of_frameDec {c : Config} {b : List Byte} {m : Message} (h : frameDec c b = .ok m) :
    ∃ fields, fieldsDec c (fieldArea b).length 13 (fieldArea b) = .ok fields ∧ m = messageOf b fields := by
  unfold frameDec at h
  split_ifs at h
  split at h
  · cases h
  · next fields hfields => cases h; exact ⟨fields, hfields, rfl⟩

/-- A read of `n` bytes fits a word of `n` bytes. -/
theorem toNat_ofNat_memRead {n width : Nat} (hwidth : 256 ^ n = 2 ^ width) (b : List Byte) (i : Nat) :
    (BitVec.ofNat width (memRead b i n)).toNat = memRead b i n := by
  rw [BitVec.toNat_ofNat, Nat.mod_eq_of_lt (hwidth ▸ memRead_lt b i n)]

end Sys2Proof.Machine

namespace Sys2Proof
open Machine

/-- Settles O35: the first check that fails decides. -/
theorem frdecChecksLengthThenMarkers : Obligations.FrdecChecksLengthThenMarkers := by
  intro b s
  exact ⟨fun hlen => exec_frdec_eq_error_iff.2 (frameDec_of_short s.cfg hlen),
    fun hlen hstart => exec_frdec_eq_error_iff.2 (frameDec_of_no_start s.cfg hlen hstart),
    fun hlen hstart hend => exec_frdec_eq_error_iff.2 (frameDec_of_no_end s.cfg hlen hstart hend)⟩

/-- Settles O37: the markers, the fields and the other attributes lie outside the offsets the two sequences differ at. -/
theorem frdecIgnoresLengthCountAndChecksum : Obligations.FrdecIgnoresLengthCountAndChecksum := by
  intro a b s hlen hagree
  have hsame {k : Nat} (hk : ¬(7 ≤ k ∧ k ≤ 10) ∧ k ≠ a.length - 3 ∧ k ≠ a.length - 2) : a[k]? = b[k]? := by
    refine hagree k ?_
    simp only [List.mem_cons, List.not_mem_nil, or_false]
    omega
  have hread (hlong : 16 ≤ a.length) :
      a[0]? = b[0]? ∧ a[a.length - 1]? = b[a.length - 1]? ∧ fieldArea a = fieldArea b := by
    refine ⟨hsame (by omega), hsame (by omega), ?_⟩
    rw [fieldArea, fieldArea, ← hlen]
    exact slice_congr fun k _ _ => hsame (by omega)
  obtain ⟨e, ha, hb⟩ | ⟨fields, hlong, ha, hb⟩ := frameDec_congr s.cfg hlen hread
  · exact .inl ⟨e, exec_frdec_eq_error_iff.2 ha, exec_frdec_eq_error_iff.2 hb⟩
  · exact .inr ⟨_, _, exec_frdec_eq_message_iff.2 ha, exec_frdec_eq_message_iff.2 hb,
      messageOf_congr fields fun k _ => hsame (by omega)⟩

/-- Settles O38: the Message is read at the fixed offsets, and every field took two bytes of the field area. -/
theorem frdecMessageReadsFixedOffsets : Obligations.FrdecMessageReadsFixedOffsets := by
  intro b m s hm
  obtain ⟨fields, hfields, rfl⟩ := messageOf_of_frameDec (exec_frdec_eq_message_iff.1 hm)
  refine ⟨?_, toNat_ofNat_memRead rfl b 1, toNat_ofNat_memRead rfl b 3, toNat_ofNat_memRead rfl b 7,
    toNat_ofNat_memRead rfl b 11, toNat_ofNat_memRead rfl b _⟩
  have hcount := fieldsDec_count hfields
  rw [fieldArea, slice_length] at hcount
  show fields.length ≤ (b.length - 16) / 2
  omega

/-- Settles O59: each code is its kind's; a reply that is no error has code 0, and no kind has. -/
theorem resultPortCodes : Obligations.ResultPortCodes := by
  intro v tag b k why c d r
  refine ⟨rfl, rfl, rfl, rfl, rfl, rfl, ?_, rfl, rfl, rfl⟩
  cases r with
  | error e => cases e <;> simp [Reply.code, CodecError.code]
  | _ => simp [Reply.code]

end Sys2Proof
end

section
/-! PROOFS. FRDEC's field loop on fields in wire form, FENC's own or not (43_frame.md R121; 42_field.md R106 to R111): it reads them
off one by one, and what it makes of the bytes behind them is its answer. -/

namespace Sys2Proof.Machine

/-- A wire form is a tag and a payload that the field decode takes whole and reads as its Field, whatever follows. -/
theorem fieldDec_fieldForm {c : Config} (hc : c.wf = true) {f : Field} {b : List Byte} (hb : fieldForm c f b) :
    ∃ tag w, b = tag :: w ∧ ∀ p rest, fieldDec c p tag (w ++ rest) = .ok (f, rest) := by
  cases f with
  | string t =>
    obtain ⟨rfl, ht⟩ := hb
    refine ⟨c.tagS, t ++ [0x00], rfl, fun p rest => ?_⟩
    rw [fieldDec_tagS, List.append_assoc]
    exact fdecString_append_nul ht _ rest
  | byte v => exact ⟨c.tagB, [v], hb, fun p rest => (fieldDec_tagB hc p _).trans (fdecByte_cons _ v rest)⟩
  | word v =>
    exact ⟨c.tagW, leBytes 2 v.toNat, hb.trans (fencWord_eq_extract c v).symm, fun p rest =>
      (fieldDec_tagW hc p _).trans (fdecWord_leBytes_append _ v rest)⟩
  | long v =>
    exact ⟨c.tagL, leBytes 4 v.toNat, hb.trans (fencLong_eq_extract c v).symm, fun p rest =>
      (fieldDec_tagL hc p _).trans (fdecLong_leBytes_append _ v rest)⟩
  | packed v =>
    obtain ⟨digits, rfl, hlen, hv⟩ := hb
    refine ⟨c.tagP, digits, rfl, fun p rest => ?_⟩
    rw [fieldDec_tagP hc, fdecPacked_append hlen, hv]
    rfl

/-- The loop reads fields in wire form and goes on behind them, at their offset. -/
theorem fieldsDec_append {c : Config} (hc : c.wf = true) {fs : List Field} {parts : List (List Byte)}
    (hparts : List.Forall₂ (fieldForm c) fs parts) {rest : List Byte} {bound : Nat}
    (hbound : (parts.flatten ++ rest).length ≤ bound) (pos : Nat) :
    fieldsDec c bound pos (parts.flatten ++ rest)
      = (fieldsDec c rest.length (pos + parts.flatten.length) rest).map (fs ++ ·) := by
  induction hparts generalizing bound pos with
  | nil =>
    rw [List.flatten_nil, List.nil_append] at hbound ⊢
    rw [List.length_nil, Nat.add_zero, fieldsDec_fuel hbound (Nat.le_refl rest.length)]
    cases fieldsDec c rest.length pos rest <;> rfl
  | @cons f b fs parts hb hparts ih =>
    obtain ⟨tag, w, rfl, hdec⟩ := fieldDec_fieldForm hc hb
    obtain _ | bound := bound
    · exact absurd hbound (Nat.not_succ_le_zero _)
    have hshape : (((tag :: w) :: parts).flatten ++ rest) = tag :: (w ++ (parts.flatten ++ rest)) := by simp
    have hbehind : pos + (1 + (w ++ (parts.flatten ++ rest)).length - (parts.flatten ++ rest).length) + parts.flatten.length
        = pos + ((tag :: w) :: parts).flatten.length := by simp; omega
    have hbound' : (parts.flatten ++ rest).length ≤ bound := by simp at hbound ⊢; omega
    rw [hshape, fieldsDec, hdec]
    simp only [ih hbound', hbehind]
    cases fieldsDec c rest.length (pos + ((tag :: w) :: parts).flatten.length) rest <;> rfl

section FrameAround

variable {header area checksum : List Byte} (hheader : header.length = 12) (hchecksum : checksum.length = 2)

include hheader hchecksum

theorem frameAround_length : (frameAround header area checksum).length = 16 + area.length := by
  simp [frameAround, hheader, hchecksum]
  omega

/-- The field area of the frame around `area` is `area`: the checksum bytes lie behind the window. -/
theorem fieldArea_frameAround : fieldArea (frameAround header area checksum) = area := by
  have hbefore : ([stx] ++ header).length = 13 := by rw [List.length_append, hheader]; rfl
  rw [fieldArea, frameAround_length hheader hchecksum, Nat.add_sub_cancel_left, frameAround, List.append_assoc,
    List.append_assoc, slice_append_right _ _ _ _ hbefore.symm, List.take_left]

/-- FRDEC of any frame is the field loop on its area. -/
theorem frameDec_frameAround (c : Config) : frameDec c (frameAround header area checksum)
    = (fieldsDec c area.length 13 area).map (messageOf (frameAround header area checksum)) := by
  have hend : (frameAround header area checksum)[(frameAround header area checksum).length - 1]? = some etx := by
    rw [← List.getLast?_eq_getElem?, frameAround, List.getLast?_concat]
  have hdec := frameDec_of_markers c (by rw [frameAround_length hheader hchecksum]; omega) rfl hend
  rwa [fieldArea_frameAround hheader hchecksum] at hdec

section Fields

variable {s : State} (hcfg : s.cfg.wf = true) {fs : List Field} {parts : List (List Byte)}
  (hparts : List.Forall₂ (fieldForm s.cfg) fs parts)

include hcfg hparts

/-- With nothing behind the fields FRDEC completes. -/
theorem exec_frdec_frameAround : ∃ m : Message, exec (.frdec (frameAround header parts.flatten checksum)) s
    = .next { s with result := some (.message m) } ∧ m.fields = fs := by
  have hloop := fieldsDec_append hcfg hparts (rest := []) (Nat.le_refl _) 13
  rw [List.append_nil] at hloop
  refine ⟨messageOf (frameAround header parts.flatten checksum) fs, exec_frdec_eq_message_iff.2 ?_, rfl⟩
  rw [frameDec_frameAround hheader hchecksum, hloop]
  simp [fieldsDec, Except.map]

/-- A defective field behind the fields raises its error. -/
theorem exec_frdec_frameAround_error {tag : Byte} {w : List Byte} {e : CodecError}
    (herror : fieldDec s.cfg (13 + parts.flatten.length) tag w = .error e) :
    exec (.frdec (frameAround header (parts.flatten ++ tag :: w) checksum)) s
      = .next { s with result := some (.error e) } := by
  refine exec_frdec_eq_error_iff.2 ?_
  rw [frameDec_frameAround hheader hchecksum, fieldsDec_append hcfg hparts (Nat.le_refl _), List.length_cons, fieldsDec,
    herror]
  rfl

end Fields

end FrameAround

end Sys2Proof.Machine

namespace Sys2Proof
open Machine

/-- Settles O60: the field behind the readable ones is decoded at offset 13 plus their length, its payload one behind, and each
format says what it lacks. -/
theorem frdecReadsTheFieldsInOrder : Obligations.FrdecReadsTheFieldsInOrder := by
  intro header checksum fs parts tag t p w s hcfg hheader hchecksum hparts
  have hpayload : 13 + parts.flatten.length + 1 = 14 + parts.flatten.length := by omega
  have hraise {tag : Byte} {w : List Byte} {e : CodecError}
      (herror : fieldDec s.cfg (13 + parts.flatten.length) tag w = .error e) :=
    exec_frdec_frameAround_error hheader hchecksum hcfg hparts herror
  refine ⟨exec_frdec_frameAround hheader hchecksum hcfg hparts, fun htag => hraise (fieldDec_unknown htag _ w),
    fun ht => hraise ?_, hraise ?_, fun hw => hraise ?_, fun hw => hraise ?_, fun hw => hraise ?_,
    fun k hk hlen hbad hafter => ?_⟩
  · rw [fieldDec_tagS, hpayload, fdecString_unterminated ht]
  · rw [fieldDec_tagB hcfg, hpayload, fdecByte]
  · rw [fieldDec_tagW hcfg, hpayload, fdecWord_truncated hw]
  · rw [fieldDec_tagL hcfg, hpayload, fdecLong_truncated hw]
  · rw [fieldDec_tagP hcfg, hpayload, fdecPacked_truncated hw]
  · have hdigit : pdDec p = .error (.digitError k p[k]) := pdDec_of_bad hk (by rw [Decimal]; omega) hafter
    rw [List.append_assoc, List.cons_append]
    refine hraise ?_
    rw [fieldDec_tagP hcfg, fdecPacked_append hlen, hdigit]
    rfl

end Sys2Proof
end
